-- ==== Sys2Proof/Word.lean ====
section
/-! DEFINITION. The fixed-width values of the block (spec/00_scope.md R8): all are unsigned bit vectors. -/

namespace Sys2Proof

/-- An operation word on port OP, and the data field of a response: u32 (R70, R41). -/
abbrev Word := BitVec 32

/-- A pulse interval in ticks: u16 (R6 IV_W, R22). -/
abbrev Interval := BitVec 16

/-- A 16-bit register of the host window, an address or a value latch: u16 (R35, R36, R39). -/
abbrev Half := BitVec 16

/-- A byte of a display frame or of an IR command frame: u8 (R29, R51). -/
abbrev Byte := BitVec 8

/-- A register number of the host window: u5 (R39). -/
abbrev RegNum := BitVec 5

end Sys2Proof
end

