-- ==== Sys2Proof/Config.lean ====
section
/-! DEFINITION. The parameters of the block (spec/00_scope.md R6, R43): what the source fixes, what the integrator
fixes before RESET is released (R203), and the one free value, the order of simultaneous operations (R185). -/

namespace Sys2Proof

/-- Entries of the IR frame buffer: 1 leader and 32 data intervals (R6, R22). -/
abbrev irCap : Nat := 33

/-- Bytes of the display frame buffer (R6, R29). -/
abbrev dfCap : Nat := 12

/-- ERR_MODE: what the error counter does at its maximum (R6, R139). -/
inductive ErrMode where
  /-- It stays at 255. -/
  | saturate
  /-- It goes on at 0. -/
  | wrap
deriving DecidableEq, Repr, Inhabited

/-- One window of intervals, both bounds inclusive (R6, R12). -/
structure Window where
  min : Nat
  max : Nat
deriving DecidableEq, Repr

/-- A window that is not empty and lies within 0..65535 (R6). -/
def Window.wf (w : Window) : Bool := w.min ≤ w.max && w.max ≤ 65535

/-- Two windows with no interval in common: "Ranges must not overlap" (R6). -/
def Window.disjoint (v w : Window) : Bool := v.max < w.min || w.max < v.min

/-- A parameter set, legal or not: the OPEN parameters of R6 and ERR_MODE. -/
structure Params where
  /-- LEADER_MIN, LEADER_MAX. -/
  leader : Window
  /-- ONE_MIN, ONE_MAX. -/
  one : Window
  /-- ZERO_MIN, ZERO_MAX. -/
  zero : Window
  /-- STALL_LIMIT. -/
  stallLimit : Nat
  /-- ERR_MODE. -/
  errMode : ErrMode
deriving DecidableEq, Repr

/-- The legality of a parameter set (R6, R203): the windows are non-empty, pairwise disjoint and within 0..65535,
and STALL_LIMIT is at most 65534. A set that breaks it is refused at instantiation (R181 BadConfig). -/
def Params.legal (p : Params) : Bool :=
  p.leader.wf && p.one.wf && p.zero.wf
    && p.leader.disjoint p.one && p.leader.disjoint p.zero && p.one.disjoint p.zero
    && p.stallLimit ≤ 65534

/-- A parameter set with the proof that it is legal. The default values only show that there is one: they are no
hardware's, and nothing can see them through `Config.params`. -/
structure LegalParams where
  params : Params := ⟨⟨2, 2⟩, ⟨1, 1⟩, ⟨0, 0⟩, 0, .saturate⟩
  isLegal : params.legal = true := by decide
deriving DecidableEq, Repr, Inhabited

/-- The parameters of this block: ANY legal set, fixed for its life (R6 OPEN, R43; assumption log 8 and 9). It has
no body, so a theorem about the machine holds for every legal set. -/
opaque Config.params : LegalParams

/-- The parameter set of this block. -/
abbrev theParams : Params := Config.params.params

/-- DESIGN CHOICE, safe (assumption log 2). The free value of R185: when both agents present an operation, does the
n-th such choice accept the edge source's first? The spec does not fix the order, so nothing constrains it. -/
opaque Config.edgeFirst : Nat → Bool

end Sys2Proof
end

