-- ==== Sys2Proof/Syntax.lean ====
section
/-! DEFINITION. The operations of the block (spec/30_encoding.md R73), one constructor per row of
spec/opcode_table.json. -/

namespace Sys2Proof

/-- An operation presented on port OP (R70, R73). -/
inductive Instr where
  /-- IR_EDGE iv: one qualifying edge and the interval since the previous one (R102). -/
  | irEdge (iv : Interval)
  /-- IR_DECODE: decode and release a ready frame (R104). -/
  | irDecode
  /-- DF_RXBYTE b: the parser consumes one byte (R132). -/
  | dfRxbyte (b : Byte)
  /-- DF_IDLE: the parser is invoked and finds no byte (R140). -/
  | dfIdle
  /-- DF_TAKE: the consumer takes the ready pair (R141). -/
  | dfTake
  /-- REG_READ rn: the host reads one register of the window (R170). -/
  | regRead (rn : RegNum)
deriving DecidableEq, Repr

end Sys2Proof
end

