-- ==== Sys2Proof/Machine/State.lean ====
section
/-! DEFINITION. The state of the block as plain data (spec/10_state.md R20 to R45), the reasons a step can stop, and
the machine right after reset (spec/70_reset_and_hazards.md R200). -/

namespace Sys2Proof.Machine

/-- The IR sub-block's state (R22 to R25). IR_EDGE_EN is not state (R26). -/
structure IrState where
  /-- IR_BUF: IR_CAP = 33 entries. An entry that was never written holds no value (R201; assumption log 6). -/
  buf : Vector (Option Interval) 33
  /-- IR_IDX. -/
  idx : BitVec 6
  /-- IR_BUSY, "frame in progress". -/
  busy : Bool
  /-- IR_READY, "frame ready". -/
  ready : Bool
deriving DecidableEq, Repr

/-- DF_STATE (R28). -/
inductive DfPhase where
  | idle
  | gotHdrHi
  | gotHdrLo
  | receiving
deriving DecidableEq, Repr

/-- The DF sub-block's state (R28 to R36). -/
structure DfState where
  /-- DF_STATE. -/
  phase : DfPhase
  /-- DF_BUF: DF_CAP = 12 entries. An entry that was never written holds no value (R201; assumption log 6). -/
  buf : Vector (Option Byte) 12
  /-- DF_IDX. -/
  idx : BitVec 4
  /-- DF_LEN. -/
  len : BitVec 8
  /-- DF_STALL. -/
  stall : BitVec 16
  /-- DF_ERR. -/
  err : BitVec 8
  /-- DF_READY. -/
  ready : Bool
  /-- DF_ADDR. -/
  addr : Half
  /-- DF_VALUE. -/
  value : Half
deriving DecidableEq, Repr

/-- A response on port RESP (R41). -/
structure Response where
  /-- V: the response carries data. -/
  v : Bool
  /-- OK: the command check of IR_DECODE. -/
  ok : Bool
  /-- D: the data. -/
  d : Word
deriving DecidableEq, Repr

/-- The machine: the block's own state (`ir`, `df`), and the MODEL's own fields that stand for its ports. -/
structure State where
  /-- The IR sub-block (R22 to R27). -/
  ir : IrState
  /-- The DF sub-block (R28 to R37). -/
  df : DfState
  /-- Port RESP: the response of the operation applied last (R41; model's own, assumption log 4). -/
  resp : Response
  /-- Port RESET: asserted for the next step (R200; model's own, assumption log 5). -/
  resetIn : Bool
  /-- The words the edge source presents at port OP, in its issue order (R59; model's own, assumption log 1). -/
  edgeOps : List Word
  /-- The words the host presents at port OP, in its issue order (R59; model's own, assumption log 1). -/
  hostOps : List Word
  /-- How many simultaneous presentations were ordered so far (R185; model's own, assumption log 2). -/
  draws : Nat
deriving DecidableEq, Repr

/-- The two internal arrays (R22, R29). -/
inductive Buffer where
  | irBuf
  | dfBuf
deriving DecidableEq, Repr

/-- What stops the machine with a fault. The hardware raises none (R180); each of these is the model's own, and no
state that meets R27 and R37 reaches one. -/
inductive Fault where
  /-- Raised by IR_DECODE and by frame completion in DF_RXBYTE: entry `i` of the array was never written, and
  "the model must fault there rather than supply a value" (R201; assumption log 6). Safe. -/
  | unwrittenEntry (b : Buffer) (i : Nat)
  /-- Raised by IR_EDGE: an append at an index that is no entry of the array (R22 numbers them 0 to 32; assumption
  log 7). Safe. -/
  | noSuchEntry (b : Buffer) (i : Nat)
deriving DecidableEq, Repr

/-- What the block gives no meaning to (R181). All are safe: no run goes on through one. -/
inductive Refusal where
  /-- Raised by the step: OP = 0x0 or 0x7..0xF (R74), with the word. Code 1. -/
  | reservedOp (w : Word)
  /-- Raised by the step: a non-zero Z field (R75), with the word. Code 2. -/
  | reservedBits (w : Word)
  /-- Raised by REG_READ: a register number 0x09..0x1F (R40), with the number. Code 3. -/
  | reservedReg (rn : RegNum)
  /-- Raised at instantiation: a parameter set that breaks R6, with the set. Code 4. -/
  | badConfig (p : Params)
  /-- Raised by an arm of exec whose instruction has no meaning yet. No arm is one now. -/
  | notModelled (mnemonic : String)
deriving DecidableEq, Repr

/-- The IR sub-block after reset (R200): idle, awaiting leader; no entry of IR_BUF holds a value (R201). -/
def IrState.reset : IrState where
  buf := Vector.replicate 33 none
  idx := 0#6
  busy := false
  ready := false

/-- The DF sub-block after reset (R200): no entry of DF_BUF holds a value (R201). -/
def DfState.reset : DfState where
  phase := .idle
  buf := Vector.replicate 12 none
  idx := 0#4
  len := 0#8
  stall := 0#16
  err := 0#8
  ready := false
  addr := 0#16
  value := 0#16

/-- respond(0, 0, 0): no data (R41). -/
def Response.none : Response := ⟨false, false, 0#32⟩

/-- The machine right after reset (R200). The model's own fields: no response yet, RESET released, nothing presented
(DESIGN CHOICE, assumption log 1, 2, 4, 5). -/
def State.reset : State where
  ir := IrState.reset
  df := DfState.reset
  resp := Response.none
  resetIn := false
  edgeOps := []
  hostOps := []
  draws := 0

end Sys2Proof.Machine
end

