-- ==== Sys2Proof/Machine/Flags.lean ====
section
/-! DEFINITION. The flags and level outputs of the block (spec/10_state.md R26, R38, R42) and the command check
(spec/40_ir_decoder.md R105). There are no arithmetic condition codes (R38). -/

namespace Sys2Proof.Machine

/-- IR_EDGE_EN = NOT IR_READY (R26). -/
def IrState.edgeEn (ir : IrState) : Bool := !ir.ready

/-- Output port IR_EDGE_EN (R42). -/
def State.irEdgeEn (s : State) : Bool := s.ir.edgeEn

/-- Output port IR_READY_IRQ, a level copy of IR_READY (R42, R184). -/
def State.irReadyIrq (s : State) : Bool := s.ir.ready

/-- Output port DF_READY_IRQ, a level copy of DF_READY (R42, R184). -/
def State.dfReadyIrq (s : State) : Bool := s.df.ready

/-- Response bit OK of IR_DECODE: command XOR inverted command is 0xFF (R105). The address pair is not checked
(R106). -/
def commandOk (c nc : Byte) : Bool := c ^^^ nc == 0xFF#8

/-- DF_STATE as its two bits (R28). -/
def DfPhase.code : DfPhase → BitVec 2
  | .idle => 0
  | .gotHdrHi => 1
  | .gotHdrLo => 2
  | .receiving => 3

/-- IR_STATUS: EDGE_EN ++ BUSY ++ READY in bits 2:0 (R39, R170). -/
def irStatus (ir : IrState) : Half :=
  (BitVec.ofBool ir.edgeEn ++ BitVec.ofBool ir.busy ++ BitVec.ofBool ir.ready).setWidth 16

/-- DF_STATUS: READY ++ STATE in bits 2:0 (R39, R170). -/
def dfStatus (df : DfState) : Half := (BitVec.ofBool df.ready ++ df.phase.code).setWidth 16

end Sys2Proof.Machine
end

