-- ==== Sys2Proof/Machine/Operands.lean ====
section
/-! DEFINITION. What the operations make of an operand: the windows and classes of an interval
(spec/00_scope.md R12, spec/40_ir_decoder.md R100, R101) and the bytes of a display frame
(spec/41_display_framer.md R130). The operand fields themselves are taken from the word in Decode.lean (R72). -/

namespace Sys2Proof.Machine

/-- The class of an interval (R100). -/
inductive IvClass where
  | leader
  | one
  | zero
  | none
deriving DecidableEq, Repr

/-- `v` lies in the window, both bounds inclusive (R12). -/
def inWindow (w : Window) (v : Interval) : Bool := w.min ≤ v.toNat && v.toNat ≤ w.max

/-- in_leader (R12). -/
def inLeader (p : Params) (v : Interval) : Bool := inWindow p.leader v

/-- in_one (R12). -/
def inOne (p : Params) (v : Interval) : Bool := inWindow p.one v

/-- in_zero (R12). -/
def inZero (p : Params) (v : Interval) : Bool := inWindow p.zero v

/-- classify (R100). -/
def classify (p : Params) (v : Interval) : IvClass :=
  if inLeader p v then .leader
  else if inOne p v then .one
  else if inZero p v then .zero
  else .none

/-- The interval the edge source presents for an elapsed time in ticks: "An elapsed time above 65535 ticks is
presented as 65535" (R101). A duty of the edge source, which the block does not check (assumption log 14). -/
def presentedInterval (elapsed : Nat) : Interval := BitVec.ofNat 16 (min elapsed 65535)

/-- HDR_HI (R130). -/
def hdrHi : Byte := 0x5A#8

/-- HDR_LO (R130). -/
def hdrLo : Byte := 0xA5#8

/-- CMD_WRITE (R130). -/
def cmdWrite : Byte := 0x82#8

/-- CMD_READRESP (R130). -/
def cmdReadResp : Byte := 0x83#8

/-- PAYLOAD_MIN_LEN (R6, R130). -/
def payloadMinLen : BitVec 8 := 6#8

/-- LEN_MIN ≤ L ≤ LEN_MAX (R6, R135). -/
def legalLength (l : Byte) : Bool := 3#8 ≤ l && l ≤ 9#8

/-- A recognised command: a write or a read-response (R138). -/
def recognised (cmd : Byte) : Bool := cmd == cmdWrite || cmd == cmdReadResp

end Sys2Proof.Machine
end

