-- ==== Sys2Proof/Machine/Ops.lean ====
section
/-! DEFINITION. The operations shared by the meanings: the accessors of the two buffers, the response, the register
window, the byte decode, the framer's common steps, reset and instantiation. The block takes no exception and has no
return from one (spec/60_exceptions.md R180, R187, R188), so there is no such operation here. -/

namespace Sys2Proof.Machine

/-! ### Updates of the state -/

/-- The state with this IR sub-block. -/
def State.setIr (s : State) (ir : IrState) : State := { s with ir := ir }

/-- The state with this DF sub-block. -/
def State.setDf (s : State) (df : DfState) : State := { s with df := df }

/-- respond(V, OK, D) (R11, R41). -/
def State.respond (s : State) (r : Response) : State := { s with resp := r }

/-! ### The buffers (R22, R29) -/

/-- Read IR_BUF[i]. An entry that holds no value faults (R201). -/
def IrState.read (ir : IrState) (i : Nat) : Except Fault Interval :=
  match ir.buf[i]? with
  | some (some v) => .ok v
  | some Option.none => .error (.unwrittenEntry .irBuf i)
  | Option.none => .error (.noSuchEntry .irBuf i)

/-- IR_BUF[i] <- v. -/
def IrState.write (ir : IrState) (i : Nat) (v : Interval) : IrState :=
  { ir with buf := ir.buf.setIfInBounds i (some v) }

/-- Read DF_BUF[i]. An entry that holds no value faults (R201). -/
def DfState.read (df : DfState) (i : Nat) : Except Fault Byte :=
  match df.buf[i]? with
  | some (some v) => .ok v
  | some Option.none => .error (.unwrittenEntry .dfBuf i)
  | Option.none => .error (.noSuchEntry .dfBuf i)

/-- DF_BUF[i] <- b. -/
def DfState.write (df : DfState) (i : Nat) (b : Byte) : DfState :=
  { df with buf := df.buf.setIfInBounds i (some b) }

/-! ### IR capture and decode -/

/-- A leader (re)starts capture: entry 0 is the leader, IR_IDX 1, IR_BUSY 1 (R102). -/
def IrState.startCapture (ir : IrState) (iv : Interval) : IrState :=
  { ir.write 0 iv with idx := 1#6, busy := true }

/-- An interval of any class recorded as-is at IR_IDX; the 33rd entry makes the frame ready (R102). -/
def IrState.append (ir : IrState) (iv : Interval) : IrState :=
  { ir.write ir.idx.toNat iv with
    idx := ir.idx + 1#6
    ready := ir.ready || (ir.idx + 1#6).toNat == irCap }

/-- What an edge does to the IR sub-block while IR_READY = 0 (R102). -/
def irCapture (p : Params) (iv : Interval) (ir : IrState) : IrState :=
  if classify p iv = .leader then ir.startCapture iv
  else if !ir.busy then ir
  else ir.append iv

/-- An edge would append at an index that is no entry of IR_BUF. Unreachable: IR_IDX is at most 32 while capturing
(R27; assumption log 7). -/
def irAppendOutside (p : Params) (iv : Interval) (ir : IrState) : Bool :=
  ir.busy && irCap ≤ ir.idx.toNat && classify p iv ≠ .leader

/-- `x` shifted left by the bits of the next `n` entries from entry `i` on, most significant first (R103). Only the
logic-1 window is tested: any other interval is a 0 bit. -/
def decodeBits (p : Params) (ir : IrState) : Nat → Nat → Byte → Except Fault Byte
  | 0, _, x => .ok x
  | n + 1, i, x =>
    match ir.read i with
    | .error f => .error f
    | .ok v => decodeBits p ir n (i + 1) ((x <<< 1) ||| (BitVec.ofBool (inOne p v)).setWidth 8)

/-- decode_byte(k): the eight entries from IR_BUF[1 + 8k] (R103). -/
def decodeByte (p : Params) (ir : IrState) (k : Nat) : Except Fault Byte := decodeBits p ir 8 (1 + 8 * k) 0#8

/-- The response of IR_DECODE for a ready frame: (1, OK, addr ++ naddr ++ cmd ++ ncmd) (R53, R104). -/
def decodeFrame (p : Params) (ir : IrState) : Except Fault Response := do
  let a ← decodeByte p ir 0
  let na ← decodeByte p ir 1
  let c ← decodeByte p ir 2
  let nc ← decodeByte p ir 3
  return ⟨true, commandOk c nc, a ++ na ++ c ++ nc⟩

/-- IR_DECODE gives the frame back to the edge source: IR_READY, IR_BUSY and IR_IDX cleared (R104). -/
def IrState.release (ir : IrState) : IrState := { ir with ready := false, busy := false, idx := 0#6 }

/-! ### The display framer -/

/-- to_idle() (R132). DF_LEN keeps its value. -/
def DfState.toIdle (df : DfState) : DfState := { df with phase := .idle, idx := 0#4, stall := 0#16 }

/-- The error count after one more error (R139). -/
def errSucc (m : ErrMode) (e : BitVec 8) : BitVec 8 :=
  match m with
  | .saturate => if e < 255#8 then e + 1#8 else e
  | .wrap => e + 1#8

/-- err_inc() (R139). -/
def DfState.errInc (p : Params) (df : DfState) : DfState := { df with err := errSucc p.errMode df.err }

/-- DF_RXBYTE in IDLE (R133). -/
def rxIdle (b : Byte) (df : DfState) : DfState :=
  if b = hdrHi then { df.write 0 b with idx := 1#4, phase := .gotHdrHi } else df

/-- DF_RXBYTE in GOT_HDR_HI (R134). -/
def rxGotHdrHi (b : Byte) (df : DfState) : DfState :=
  if b = hdrLo then { df.write 1 b with idx := 2#4, phase := .gotHdrLo }
  else if b = hdrHi then { df.write 0 b with idx := 1#4 }
  else df.toIdle

/-- DF_RXBYTE in GOT_HDR_LO: the byte is the declared length (R135). -/
def rxGotHdrLo (p : Params) (b : Byte) (df : DfState) : DfState :=
  if legalLength b then { df.write 2 b with idx := 3#4, len := b, phase := .receiving }
  else (df.errInc p).toIdle

/-- complete() (R138): the pair is latched for a recognised command with a payload. The address of a recognised
frame is read whatever its length, as R138 writes it. -/
def DfState.complete (df : DfState) : Except Fault DfState := do
  let cmd ← df.read 3
  if recognised cmd then
    let aHi ← df.read 4
    let aLo ← df.read 5
    if payloadMinLen ≤ df.len then
      let vHi ← df.read 7
      let vLo ← df.read 8
      return { df with addr := aHi ++ aLo, value := vHi ++ vLo, ready := true }
    else return df
  else return df

/-- The append of R136: the byte at DF_IDX, and the new count. -/
def DfState.append (df : DfState) (b : Byte) : DfState := { df.write df.idx.toNat b with idx := df.idx + 1#4 }

/-- DF_RXBYTE in RECEIVING: the capacity check (R137), the append and completion (R136). -/
def rxReceiving (p : Params) (b : Byte) (df : DfState) : Except Fault DfState :=
  if dfCap ≤ df.idx.toNat then .ok (df.errInc p).toIdle
  else if 3 + df.len.toNat ≤ (df.append b).idx.toNat then do
    let done ← (df.append b).complete
    return done.toIdle
  else .ok (df.append b)

/-- "reset to zero on every byte successfully consumed" (R132). -/
def DfState.clearStall (df : DfState) : DfState := { df with stall := 0#16 }

/-- DF_RXBYTE on the DF sub-block: every byte zeroes the stall count, then the arm of DF_STATE (R132). -/
def dfReceive (p : Params) (b : Byte) (df : DfState) : Except Fault DfState :=
  match df.phase with
  | .idle => .ok (rxIdle b df.clearStall)
  | .gotHdrHi => .ok (rxGotHdrHi b df.clearStall)
  | .gotHdrLo => .ok (rxGotHdrLo p b df.clearStall)
  | .receiving => rxReceiving p b df.clearStall

/-- One empty poll outside IDLE is counted (R140). -/
def DfState.countStall (df : DfState) : DfState := { df with stall := df.stall + 1#16 }

/-- DF_IDLE on the DF sub-block (R140): the timeout fires when the count exceeds STALL_LIMIT. -/
def dfPollEmpty (p : Params) (df : DfState) : DfState :=
  if df.phase = .idle then df
  else if p.stallLimit < df.countStall.stall.toNat then (df.countStall.errInc p).toIdle
  else df.countStall

/-- DF_TAKE clears DF_READY; the latches keep their values (R141). -/
def DfState.takePair (df : DfState) : DfState := { df with ready := false }

/-! ### The host register window (R39, R170) -/

/-- The value of register `rn`; none for a reserved number (R40). -/
def readWindow (s : State) (rn : RegNum) : Option Half :=
  match rn.toNat with
  | 0x00 => some (irStatus s.ir)
  | 0x01 => some (s.ir.idx.setWidth 16)
  | 0x02 => some (dfStatus s.df)
  | 0x03 => some (s.df.idx.setWidth 16)
  | 0x04 => some (s.df.len.setWidth 16)
  | 0x05 => some s.df.stall
  | 0x06 => some (s.df.err.setWidth 16)
  | 0x07 => some s.df.addr
  | 0x08 => some s.df.value
  | _ => Option.none

/-! ### Reset and instantiation -/

/-- RESET taken as one step (R200): every element of the block at its reset value. The agents' pending words stay:
no operation is accepted while RESET is asserted (assumption log 5). -/
def State.takeReset (s : State) : State :=
  { s with ir := IrState.reset, df := DfState.reset, resp := Response.none, resetIn := false }

/-- Instantiation with a parameter set: an illegal set is refused, before any operation (R181 BadConfig, R203). -/
def instantiate (p : Params) : Host.Outcome State Fault Refusal :=
  if p.legal then .next State.reset else .refused (.badConfig p)

end Sys2Proof.Machine
end

