-- ==== Sys2Proof/Machine/DisplayFramer.lean ====
section
/-! DEFINITION. The meanings of the DF sub-block's operations (spec/41_display_framer.md), each for any parameter set
and then for the block's own. -/

namespace Sys2Proof.Machine

/-- DF_RXBYTE b under parameters `p` (R132). -/
def dfRxbyte (p : Params) (b : Byte) (s : State) : Host.Outcome State Fault Refusal :=
  match dfReceive p b s.df with
  | .ok df => .next ((s.setDf df).respond Response.none)
  | .error f => .fault f

/-- DF_RXBYTE (R132). -/
def execDfRxbyte (b : Byte) (s : State) : Host.Outcome State Fault Refusal := dfRxbyte theParams b s

/-- DF_IDLE under parameters `p` (R140). -/
def dfIdle (p : Params) (s : State) : Host.Outcome State Fault Refusal :=
  .next ((s.setDf (dfPollEmpty p s.df)).respond Response.none)

/-- DF_IDLE (R140). -/
def execDfIdle (s : State) : Host.Outcome State Fault Refusal := dfIdle theParams s

/-- DF_TAKE (R141): the ready pair, once; V = 0 if there is none. -/
def execDfTake (s : State) : Host.Outcome State Fault Refusal :=
  if s.df.ready then .next ((s.setDf s.df.takePair).respond ⟨true, false, s.df.addr ++ s.df.value⟩)
  else .next (s.respond Response.none)

end Sys2Proof.Machine
end

