-- ==== Sys2Proof/Machine/HostAccess.lean ====
section
/-! DEFINITION. The meaning of the host's register access (spec/42_host_access.md). -/

namespace Sys2Proof.Machine

/-- REG_READ rn (R170): the register's value, zero-extended; a reserved number is refused (R40). -/
def execRegRead (rn : RegNum) (s : State) : Host.Outcome State Fault Refusal :=
  match readWindow s rn with
  | some r => .next (s.respond ⟨true, false, r.setWidth 32⟩)
  | Option.none => .refused (.reservedReg rn)

end Sys2Proof.Machine
end

