-- ==== Sys2Proof/Machine/IrDecoder.lean ====
section
/-! DEFINITION. The meanings of the IR sub-block's operations (spec/40_ir_decoder.md), each for any parameter set and
then for the block's own. -/

namespace Sys2Proof.Machine

/-- IR_EDGE iv under parameters `p` (R102): ignored while IR_READY = 1; else a leader restarts capture, any other
interval is discarded while idle and recorded as-is during capture. -/
def irEdge (p : Params) (iv : Interval) (s : State) : Host.Outcome State Fault Refusal :=
  if s.ir.ready then .next (s.respond Response.none)
  else if irAppendOutside p iv s.ir then .fault (.noSuchEntry .irBuf s.ir.idx.toNat)
  else .next ((s.setIr (irCapture p iv s.ir)).respond Response.none)

/-- IR_EDGE (R102). -/
def execIrEdge (iv : Interval) (s : State) : Host.Outcome State Fault Refusal := irEdge theParams iv s

/-- IR_DECODE under parameters `p` (R104): with no frame ready nothing changes and V = 0; else the four bytes and the
command check are the response and the frame is released. -/
def irDecode (p : Params) (s : State) : Host.Outcome State Fault Refusal :=
  if s.ir.ready then
    match decodeFrame p s.ir with
    | .ok r => .next ((s.setIr s.ir.release).respond r)
    | .error f => .fault f
  else .next (s.respond Response.none)

/-- IR_DECODE (R104). -/
def execIrDecode (s : State) : Host.Outcome State Fault Refusal := irDecode theParams s

end Sys2Proof.Machine
end

