-- ==== Sys2Proof/Machine/Dispatch.lean ====
section
/-! DEFINITION. One arm per operation (spec/30_encoding.md R73). -/

namespace Sys2Proof.Machine

-- The effect of one operation on the state; it does not take the operation from a port (Step.lean does).
def exec (i : Instr) (s : State) : Host.Outcome State Fault Refusal :=
  match i with
  | .irEdge iv => Sys2Proof.Machine.execIrEdge iv s
  | .irDecode => Sys2Proof.Machine.execIrDecode s
  | .dfRxbyte b => Sys2Proof.Machine.execDfRxbyte b s
  | .dfIdle => Sys2Proof.Machine.execDfIdle s
  | .dfTake => Sys2Proof.Machine.execDfTake s
  | .regRead rn => Sys2Proof.Machine.execRegRead rn s

end Sys2Proof.Machine
end

