-- ==== Sys2Proof/Decode.lean ====
section
/-! DEFINITION. Decoding and encoding of operation words (spec/30_encoding.md R70 to R77). Reserved-zero bits and
reserved opcodes are rejected by name; a reserved register number decodes and is refused at execution (R77). -/

namespace Sys2Proof

/-- Why a word is no operation (R74, R75). -/
inductive DecodeError where
  /-- OP is 0x0 or 0x7..0xF. -/
  | reservedOp (w : Word)
  /-- OP is defined and its Z field is not 0. -/
  | reservedBits (w : Word)
deriving DecidableEq, Repr

/-- w[31:28] (R70). -/
def opField (w : Word) : BitVec 4 := w.extractLsb' 28 4

/-- w[15:0] (R72). -/
def ivField (w : Word) : Interval := w.extractLsb' 0 16

/-- w[7:0] (R72). -/
def byteField (w : Word) : Byte := w.extractLsb' 0 8

/-- w[4:0] (R72). -/
def rnField (w : Word) : RegNum := w.extractLsb' 0 5

/-- The Z field of format N, w[27:0] (R71). -/
def zFieldN (w : Word) : BitVec 28 := w.extractLsb' 0 28

/-- The Z field of format I16, w[27:16] (R71). -/
def zFieldI16 (w : Word) : BitVec 12 := w.extractLsb' 16 12

/-- The Z field of format B8, w[27:8] (R71). -/
def zFieldB8 (w : Word) : BitVec 20 := w.extractLsb' 8 20

/-- The Z field of format R5, w[27:5] (R71). -/
def zFieldR5 (w : Word) : BitVec 23 := w.extractLsb' 5 23

/-- An operation of a defined opcode, if its reserved-zero bits are 0 (R75). -/
def requireZero (w : Word) (zIsZero : Bool) (i : Instr) : Except DecodeError Instr :=
  if zIsZero then .ok i else .error (.reservedBits w)

/-- The decoder of R77, total on all 2^32 words: OP first, then the Z field (R186). -/
def decode (w : Word) : Except DecodeError Instr :=
  if opField w = 0x1#4 then requireZero w (zFieldI16 w == 0) (.irEdge (ivField w))
  else if opField w = 0x2#4 then requireZero w (zFieldN w == 0) .irDecode
  else if opField w = 0x3#4 then requireZero w (zFieldB8 w == 0) (.dfRxbyte (byteField w))
  else if opField w = 0x4#4 then requireZero w (zFieldN w == 0) .dfIdle
  else if opField w = 0x5#4 then requireZero w (zFieldN w == 0) .dfTake
  else if opField w = 0x6#4 then requireZero w (zFieldR5 w == 0) (.regRead (rnField w))
  else .error (.reservedOp w)

/-- The encoder (R77): the operand in the low bits of the row's match word (R71, R73). -/
def encode : Instr → Word
  | .irEdge iv => 0x10000000#32 ||| iv.setWidth 32
  | .irDecode => 0x20000000#32
  | .dfRxbyte b => 0x30000000#32 ||| b.setWidth 32
  | .dfIdle => 0x40000000#32
  | .dfTake => 0x50000000#32
  | .regRead rn => 0x60000000#32 ||| rn.setWidth 32

/-- The row of the opcode map an operation belongs to, as (match, mask) (R73). -/
def opcodeRow : Instr → Word × Word
  | .irEdge _ => (0x10000000#32, 0xFFFF0000#32)
  | .irDecode => (0x20000000#32, 0xFFFFFFFF#32)
  | .dfRxbyte _ => (0x30000000#32, 0xFFFFFF00#32)
  | .dfIdle => (0x40000000#32, 0xFFFFFFFF#32)
  | .dfTake => (0x50000000#32, 0xFFFFFFFF#32)
  | .regRead _ => (0x60000000#32, 0xFFFFFFE0#32)

/-- The operation word whose low `nbits` bits are those of `w`, the bits above them 0. -/
def tableWord (nbits w : Nat) : Word := BitVec.ofNat 32 (w % 2 ^ nbits)

/-- The instruction the decoder reads from the opcode table's word `w` of `nbits` bits; none where it refuses. -/
def decodeTableWord (nbits w : Nat) : Option Instr :=
  match decode (tableWord nbits w) with
  | .ok i => some i
  | .error _ => none

end Sys2Proof
end

