-- ==== Sys2Proof/Machine/Fetch.lean ====
section
/-! DEFINITION. How an operation word reaches the block: the agents' presentations at port OP, in issue order each
and interleaved in any order (spec/20_memory.md R58, R59; spec/60_exceptions.md R185). The block fetches no
instruction and has no program counter (R21, R64). -/

namespace Sys2Proof.Machine

/-- What an undriven port OP carries (R74: "an all-zero word (a stuck or undriven port)"; assumption log 3). -/
def undrivenWord : Word := 0

/-- The word the block accepts next, and the state without it (R59). When both agents present one, the order is the
free value `Config.edgeFirst` of the next draw (R185; assumption log 2). -/
def State.accept (s : State) : Word × State :=
  match s.edgeOps, s.hostOps with
  | [], [] => (undrivenWord, s)
  | w :: rest, [] => (w, { s with edgeOps := rest })
  | [], w :: rest => (w, { s with hostOps := rest })
  | e :: es, h :: hs =>
    if Config.edgeFirst s.draws then (e, { s with edgeOps := es, draws := s.draws + 1 })
    else (h, { s with hostOps := hs, draws := s.draws + 1 })

/-- The refusal a word that is no operation gets (R74, R75, R181). -/
def refusalOf : DecodeError → Refusal
  | .reservedOp w => .reservedOp w
  | .reservedBits w => .reservedBits w

/-- Nothing but the word of `nbits` bits at port OP: the host presents it first, the edge source presents nothing
(so that the acceptance order is fixed), and RESET is released (assumption log 10). -/
def State.presentWord (s : State) (nbits w : Nat) : State :=
  { s with resetIn := false, edgeOps := [], hostOps := tableWord nbits w :: s.hostOps }

end Sys2Proof.Machine
end

