-- ==== Sys2Proof/Machine/Step.lean ====
section
/-! DEFINITION. One step of the machine: RESET if it is asserted, else the next operation (spec/20_memory.md R55,
R58; spec/70_reset_and_hazards.md R200). -/

namespace Sys2Proof.Machine

/-- One step. No operation is accepted while RESET is asserted (R200). -/
def step (s : State) : Host.Outcome State Fault Refusal :=
  if s.resetIn then .next s.takeReset
  else
    match decode s.accept.1 with
    | .ok i => exec i s.accept.2
    | .error e => .refused (refusalOf e)

/-- `s` with the opcode table's word `w` of `nbits` bits as the next operation. -/
def State.withFetchWord (s : State) (nbits w : Nat) : State := s.presentWord nbits w

end Sys2Proof.Machine
end

