-- ==== Sys2Proof/Machine/Pseudo.lean ====
section
/-! DEFINITION. The pseudo-operations (spec/30_encoding.md R79, R80): lists of real operations. -/

namespace Sys2Proof.Machine

/-- LEADER_NOM, ONE_NOM, ZERO_NOM: assembler parameters (R80). -/
structure Nominals where
  leader : Interval
  one : Interval
  zero : Interval
deriving DecidableEq, Repr

/-- Each nominal interval must lie in its window (R80). -/
def nominalsLegal (p : Params) (n : Nominals) : Bool :=
  inLeader p n.leader && inOne p n.one && inZero p n.zero

/-- DF_POLL b1, …, bk: one invocation of the parser that finds these bytes (R79). -/
def dfPoll : List Byte → List Instr
  | [] => [.dfIdle]
  | b :: bs => .dfRxbyte b :: bs.map .dfRxbyte

/-- The interval that stands for one data bit (R80). -/
def bitInterval (n : Nominals) (bit : Bool) : Interval := if bit then n.one else n.zero

/-- The eight data intervals of a byte, bit 7 first (R80). -/
def byteIntervals (n : Nominals) (x : Byte) : List Interval :=
  [7, 6, 5, 4, 3, 2, 1, 0].map fun j => bitInterval n (x.getLsbD j)

/-- IR_FRAME a, na, c, nc: the leader and the 32 data intervals (R80). -/
def irFrame (n : Nominals) (a na c nc : Byte) : List Instr :=
  .irEdge n.leader
    :: (byteIntervals n a ++ byteIntervals n na ++ byteIntervals n c ++ byteIntervals n nc).map .irEdge

end Sys2Proof.Machine
end

