-- ==== Sys2Proof/Machine/Assembler.lean ====
section
/-! DEFINITION. The assembler syntax (spec/30_encoding.md R78), over lists of characters: one operation per line, a
mnemonic, at most one operand, an optional comment. The pseudo-operations take operands separated by commas (R79,
R80). What R78 leaves open of the text is assumption log 16. -/

namespace Sys2Proof.Machine

/-- Why a line is no operation: an assembly error, not an encoding (R78). -/
inductive AsmError where
  | unknownMnemonic
  | operandCount
  | badNumber
  | outOfRange
  | illegalNominals
deriving DecidableEq, Repr

/-- White space inside a line. -/
def isBlank (c : Char) : Bool := c == ' ' || c == '\t' || c == '\r'

/-- A text without the white space around it. -/
def trimBlanks (l : List Char) : List Char :=
  ((l.dropWhile isBlank).reverse.dropWhile isBlank).reverse

/-- A text cut at its commas. -/
def splitCommas : List Char → List (List Char)
  | [] => [[]]
  | c :: cs =>
    match splitCommas cs with
    | [] => [[c]]
    | g :: gs => if c == ',' then [] :: g :: gs else (c :: g) :: gs

/-- The value of a digit in a base up to 16, in either letter case. -/
def digitValue (base : Nat) (c : Char) : Option Nat :=
  let n := c.toNat
  let v :=
    if 48 ≤ n && n ≤ 57 then n - 48
    else if 97 ≤ n && n ≤ 102 then n - 87
    else if 65 ≤ n && n ≤ 70 then n - 55
    else base
  if v < base then some v else none

/-- The value of a digit sequence read after `acc`. -/
def digitsValue (base : Nat) : List Char → Nat → Option Nat
  | [], acc => some acc
  | c :: cs, acc =>
    match digitValue base c with
    | some v => digitsValue base cs (base * acc + v)
    | none => none

/-- A decimal number or a 0x hexadecimal number (R78). -/
def parseNumber : List Char → Option Nat
  | '0' :: 'x' :: c :: cs => digitsValue 16 (c :: cs) 0
  | [] => none
  | l => digitsValue 10 l 0

/-- A number below `bound` (R78: out of range is an assembly error). -/
def parseBelow (bound : Nat) (l : List Char) : Except AsmError Nat :=
  match parseNumber l with
  | none => .error .badNumber
  | some v => if v < bound then .ok v else .error .outOfRange

/-- A byte 0..255 (R78). -/
def parseByte (l : List Char) : Except AsmError Byte := do
  let v ← parseBelow 256 l
  return BitVec.ofNat 8 v

/-- The names of the registers 0x00 to 0x08, in order (R39). -/
def registerNames : List (List Char) :=
  ["IR_STATUS".toList, "IR_INDEX".toList, "DF_STATUS".toList, "DF_INDEX".toList, "DF_LENGTH".toList,
    "DF_STALLCNT".toList, "DF_ERRCNT".toList, "DF_ADDRESS".toList, "DF_VALUEREG".toList]

/-- A register name of R39 or a register number 0..31 (R78). -/
def parseRegister (l : List Char) : Except AsmError RegNum :=
  match registerNames.findIdx? (· == l) with
  | some i => .ok (BitVec.ofNat 5 i)
  | none => do
    let v ← parseBelow 32 l
    return BitVec.ofNat 5 v

/-- An operation that takes no operand (R78). -/
def assembleNoOperand (i : Instr) : List (List Char) → Except AsmError (List Instr)
  | [] => .ok [i]
  | _ => .error .operandCount

/-- One operation, from its mnemonic and its operands (R78 to R80). -/
def assembleOp (p : Params) (n : Nominals) (mnemonic : List Char) (ops : List (List Char)) :
    Except AsmError (List Instr) :=
  if mnemonic = "IR_EDGE".toList then
    match ops with
    | [x] => do
      let v ← parseBelow 65536 x
      return [.irEdge (BitVec.ofNat 16 v)]
    | _ => .error .operandCount
  else if mnemonic = "IR_DECODE".toList then assembleNoOperand .irDecode ops
  else if mnemonic = "DF_RXBYTE".toList then
    match ops with
    | [x] => do
      let b ← parseByte x
      return [.dfRxbyte b]
    | _ => .error .operandCount
  else if mnemonic = "DF_IDLE".toList then assembleNoOperand .dfIdle ops
  else if mnemonic = "DF_TAKE".toList then assembleNoOperand .dfTake ops
  else if mnemonic = "REG_READ".toList then
    match ops with
    | [x] => do
      let rn ← parseRegister x
      return [.regRead rn]
    | _ => .error .operandCount
  else if mnemonic = "DF_POLL".toList then do
    let bs ← ops.mapM parseByte
    return dfPoll bs
  else if mnemonic = "IR_FRAME".toList then
    match ops with
    | [a, na, c, nc] => do
      let a ← parseByte a
      let na ← parseByte na
      let c ← parseByte c
      let nc ← parseByte nc
      if nominalsLegal p n then return irFrame n a na c nc else .error .illegalNominals
    | _ => .error .operandCount
  else .error .unknownMnemonic

/-- One line: the operations it stands for, none for a line with a comment or white space only. -/
def assembleLine (p : Params) (n : Nominals) (line : List Char) : Except AsmError (List Instr) :=
  let text := trimBlanks (line.takeWhile (· ≠ ';'))
  let operands := trimBlanks (text.dropWhile (fun c => !isBlank c))
  if text = [] then .ok []
  else
    assembleOp p n (text.takeWhile (fun c => !isBlank c))
      (if operands = [] then [] else (splitCommas operands).map trimBlanks)

/-- A program text, line by line. -/
def assemble (p : Params) (n : Nominals) (lines : List (List Char)) : Except AsmError (List Instr) := do
  let ops ← lines.mapM (assembleLine p n)
  return ops.flatten

end Sys2Proof.Machine
end

