-- ==== Sys2Proof/WellFormed.lean ====
section
/-! DEFINITION. Well-formed operations (spec/30_encoding.md R76). The widths of the operands are their types', so the
one check left is the reserved operand value: a register number 0x09..0x1F. -/

namespace Sys2Proof

/-- No reserved operand value (R76): every interval and every byte is legal; a register number is below 0x09. -/
def Instr.wellFormed : Instr → Bool
  | .irEdge _ => true
  | .irDecode => true
  | .dfRxbyte _ => true
  | .dfIdle => true
  | .dfTake => true
  | .regRead rn => rn < 0x09#5

end Sys2Proof
end

