-- ==== Sys2Proof/Safety.lean ====
section
/-! DEFINITION. What counts as a safe run: the invariants of spec/10_state.md R27 and R37, and sequences of
operations applied one at a time (spec/20_memory.md R58). -/

namespace Sys2Proof.Machine

/-- The IR invariants (R27), and what they rest on: the entries below IR_IDX of a frame in progress are written, entry
0 by a leader and no other by one (R22, R102, R103). -/
structure IrInv (p : Params) (ir : IrState) : Prop where
  ready_full : ir.ready = true → ir.busy = true ∧ ir.idx = 33#6
  capturing_range : ir.busy = true → ir.ready = false → 1#6 ≤ ir.idx ∧ ir.idx ≤ 32#6
  idle_clear : ir.busy = false → ir.ready = false ∧ ir.idx = 0#6
  leader_entry : ir.busy = true → ∃ v, ir.buf[0]? = some (some v) ∧ classify p v = .leader
  data_entries : ir.busy = true → ∀ i, 1 ≤ i → i < ir.idx.toNat →
    ∃ v, ir.buf[i]? = some (some v) ∧ classify p v ≠ .leader

/-- The DF invariants (R37), and what they rest on: the entries below DF_IDX are written (R29, R30), and DF_LEN is the
reset value or a legal length (R31). -/
structure DfInv (p : Params) (df : DfState) : Prop where
  idle_clear : df.phase = .idle → df.idx = 0#4 ∧ df.stall = 0#16
  hdr_hi : df.phase = .gotHdrHi → df.idx = 1#4 ∧ df.buf[0]? = some (some 0x5A#8)
  hdr_lo : df.phase = .gotHdrLo → df.idx = 2#4 ∧ df.buf[0]? = some (some 0x5A#8) ∧ df.buf[1]? = some (some 0xA5#8)
  receiving : df.phase = .receiving → 3#8 ≤ df.len ∧ df.len ≤ 9#8 ∧ 3 ≤ df.idx.toNat ∧
    df.idx.toNat < 3 + df.len.toNat ∧ df.buf[2]? = some (some df.len)
  stall_bounded : df.stall.toNat ≤ p.stallLimit
  written : ∀ i, i < df.idx.toNat → ∃ b, df.buf[i]? = some (some b)
  len_legal : df.len = 0#8 ∨ (3#8 ≤ df.len ∧ df.len ≤ 9#8)

/-- A response without data carries nothing (R41). -/
def Response.wf (r : Response) : Prop := r.v = false → r = Response.none

/-- The invariant of the block: R27, R37 and R41. The agents' presentations are unconstrained. -/
structure Inv (s : State) : Prop where
  ir : IrInv theParams s.ir
  df : DfInv theParams s.df
  resp : s.resp.wf

/-- Apply operations one after the other, stopping at the first fault or refusal (R58). -/
def execAll : List Instr → State → Host.Outcome State Fault Refusal
  | [], s => .next s
  | i :: is, s =>
    match exec i s with
    | .next t => execAll is t
    | .fault f => .fault f
    | .refused r => .refused r

/-- The operation is a framing error in this state: an illegal declared length (R135), capacity exceeded mid-frame
(R137) or a stall timeout (R140): the three causes of R182. -/
def framingError (i : Instr) (s : State) : Prop :=
  (∃ b, i = .dfRxbyte b ∧ s.df.phase = .gotHdrLo ∧ ¬(3 ≤ b.toNat ∧ b.toNat ≤ 9)) ∨
  (∃ b, i = .dfRxbyte b ∧ s.df.phase = .receiving ∧ 12 ≤ s.df.idx.toNat) ∨
  (i = .dfIdle ∧ s.df.phase ≠ .idle ∧ theParams.stallLimit < (s.df.stall + 1#16).toNat)

/-- The operations of the IR sub-block (R61). -/
def isIrOp (i : Instr) : Prop := (∃ iv, i = .irEdge iv) ∨ i = .irDecode

/-- The operations of the DF sub-block (R61). -/
def isDfOp (i : Instr) : Prop := (∃ b, i = .dfRxbyte b) ∨ i = .dfIdle ∨ i = .dfTake

/-- The operation is a DF_RXBYTE. -/
def isRxbyteOp : Instr → Bool
  | .dfRxbyte _ => true
  | .irEdge _ => false
  | .irDecode => false
  | .dfIdle => false
  | .dfTake => false
  | .regRead _ => false

end Sys2Proof.Machine
end

