-- ==== Sys2Proof/Certificates/Slice0/Obligations.lean ====
section
/-! DEFINITION. The statements for the provers. A next state is written out whole wherever a statement gives one, so
that it says what the operation changes and that everything else is unchanged (its frame); the block has no memory
(spec/20_memory.md R50). `theParams` is any legal parameter set (Config.params has no body). -/

open Sys2Proof Sys2Proof.Machine

/-! ### Encoding (spec/30_encoding.md) -/

/-- Decoding the word of any operation gives the operation back: "Encoding is the inverse" (R77). -/
def Obligations.DecodeOfEncodeIsIdentity : Prop :=
  ∀ i : Instr, decode (encode i) = .ok i

/-- Each operation has one word: a word that decodes is the word of its operation (R77). -/
def Obligations.EncodeOfDecodeIsIdentity : Prop :=
  ∀ (w : Word) (i : Instr), decode w = .ok i → encode i = w

/-- The opcode map: a word decodes to an operation of a row exactly when (w & mask) == match; the reserved rows have
no operation (R73). -/
def Obligations.DecoderFollowsOpcodeMap : Prop :=
  ∀ w : Word,
    ((∃ iv, decode w = .ok (.irEdge iv)) ↔ w &&& 0xFFFF0000#32 = 0x10000000#32) ∧
    (decode w = .ok .irDecode ↔ w &&& 0xFFFFFFFF#32 = 0x20000000#32) ∧
    ((∃ b, decode w = .ok (.dfRxbyte b)) ↔ w &&& 0xFFFFFF00#32 = 0x30000000#32) ∧
    (decode w = .ok .dfIdle ↔ w &&& 0xFFFFFFFF#32 = 0x40000000#32) ∧
    (decode w = .ok .dfTake ↔ w &&& 0xFFFFFFFF#32 = 0x50000000#32) ∧
    ((∃ rn, decode w = .ok (.regRead rn)) ↔ w &&& 0xFFFFFFE0#32 = 0x60000000#32) ∧
    (decode w = .error (.reservedOp w) ↔
      w &&& 0xF0000000#32 = 0x00000000#32 ∨ 0x70000000#32 ≤ w &&& 0xF0000000#32)

/-- R74: a presented word with OP = 0x0 or OP in 0x7..0xF is refused by name; a refusal has no next state and no
response. -/
def Obligations.ReservedOpcodesAreRefused : Prop :=
  ∀ (s : State) (w : Word), s.resetIn = false → s.accept.1 = w →
    (w.toNat / 2 ^ 28 = 0 ∨ 7 ≤ w.toNat / 2 ^ 28) →
    step s = .refused (.reservedOp w)

/-- R75: a presented word of a defined opcode whose Z field (R71) is not 0 is refused by name, and it matches no row of
R73. -/
def Obligations.ReservedBitsAreRefused : Prop :=
  ∀ (s : State) (w : Word), s.resetIn = false → s.accept.1 = w →
    ((w.toNat / 2 ^ 28 = 1 ∧ w.toNat / 2 ^ 16 % 2 ^ 12 ≠ 0) ∨
      (w.toNat / 2 ^ 28 = 2 ∧ w.toNat % 2 ^ 28 ≠ 0) ∨
      (w.toNat / 2 ^ 28 = 3 ∧ w.toNat / 2 ^ 8 % 2 ^ 20 ≠ 0) ∨
      (w.toNat / 2 ^ 28 = 4 ∧ w.toNat % 2 ^ 28 ≠ 0) ∨
      (w.toNat / 2 ^ 28 = 5 ∧ w.toNat % 2 ^ 28 ≠ 0) ∨
      (w.toNat / 2 ^ 28 = 6 ∧ w.toNat / 2 ^ 5 % 2 ^ 23 ≠ 0)) →
    step s = .refused (.reservedBits w) ∧ ∀ i : Instr, w &&& (opcodeRow i).2 ≠ (opcodeRow i).1

/-- Words written out from R71 and R73, one of each format at least, and the operations they stand for. -/
def Obligations.SampleWordsDecode : Prop :=
  decode 0b00010000000000000110100101111000#32 = .ok (.irEdge 27000) ∧
  decode 0b00010000000000001111111111111111#32 = .ok (.irEdge 65535) ∧
  decode 0b00100000000000000000000000000000#32 = .ok .irDecode ∧
  decode 0b00110000000000000000000001011010#32 = .ok (.dfRxbyte 0x5A) ∧
  decode 0b01000000000000000000000000000000#32 = .ok .dfIdle ∧
  decode 0b01010000000000000000000000000000#32 = .ok .dfTake ∧
  decode 0b01100000000000000000000000001000#32 = .ok (.regRead 8)

/-- The assembler's example of R78: a line, its operation and its word. -/
def Obligations.AssemblerExampleLine : Prop :=
  ∀ n : Nominals, assembleLine theParams n "IR_EDGE 27000 ; leader".toList = .ok [.irEdge 27000] ∧
    encode (.irEdge 27000) = 0x10006978#32

/-! ### The step and the agents (spec/20_memory.md, spec/60_exceptions.md) -/

/-- A step runs the decoded operation: with RESET released and one agent presenting words, the first of them is taken
off its port and its operation applied to the rest. How the ports stand in State is the model's choice (assumption
log 1). -/
def Obligations.StepRunsPresentedOperation : Prop :=
  ∀ (s : State) (w : Word) (rest : List Word) (i : Instr), s.resetIn = false → decode w = .ok i →
    (s.edgeOps = w :: rest → s.hostOps = [] → step s = exec i { s with edgeOps := rest }) ∧
    (s.edgeOps = [] → s.hostOps = w :: rest → step s = exec i { s with hostOps := rest })

/-- Simultaneous operations (R185): one of the two presented operations is applied, the first of its agent, and the
other stays presented. Which one is the free value `Config.edgeFirst` of the draw (assumption log 2). -/
def Obligations.SimultaneousOperationsApplyEitherFirst : Prop :=
  ∀ (s : State) (e h : Word) (es hs : List Word) (i j : Instr), s.resetIn = false →
    s.edgeOps = e :: es → s.hostOps = h :: hs → decode e = .ok i → decode h = .ok j →
    step s =
      if Config.edgeFirst s.draws then exec i { s with edgeOps := es, draws := s.draws + 1 }
      else exec j { s with hostOps := hs, draws := s.draws + 1 }

/-- R185, the one pair whose order matters: with a frame ready, an edge before IR_DECODE is lost; after it, it is
captured in the re-enabled decoder. Both decodes give the same response. -/
def Obligations.EdgeAgainstDecodeBothOrders : Prop :=
  ∀ (s : State) (iv : Interval), Inv s → s.ir.ready = true →
    ∃ t u v : State,
      execAll [.irEdge iv, .irDecode] s = .next t ∧
      exec .irDecode s = .next u ∧
      execAll [.irDecode, .irEdge iv] s = .next v ∧
      t.resp = u.resp ∧ u.resp.v = true ∧ t.ir = u.ir ∧ t.ir.busy = false ∧ t.ir.idx = 0#6 ∧
      (classify theParams iv = .leader →
        v.ir.busy = true ∧ v.ir.idx = 1#6 ∧ v.ir.buf[0]? = some (some iv)) ∧
      (classify theParams iv ≠ .leader → v.ir = t.ir)

/-! ### Reset and parameters (spec/70_reset_and_hazards.md, spec/00_scope.md) -/

/-- The reset values (R200), and that asserting RESET gives them in one step. Two clauses are the model's: the
presented words stay on their ports (DESIGN CHOICE, assumption log 5), and the buffer entries lose their values, in
mid-run too (DEDUCED from R200 and R201, assumption log 6). -/
def Obligations.ResetGivesStatedValues : Prop :=
  State.reset.ir.idx = 0#6 ∧ State.reset.ir.busy = false ∧ State.reset.ir.ready = false ∧
  State.reset.irEdgeEn = true ∧ State.reset.irReadyIrq = false ∧ State.reset.dfReadyIrq = false ∧
  State.reset.df.phase = .idle ∧ State.reset.df.idx = 0#4 ∧ State.reset.df.len = 0#8 ∧
  State.reset.df.stall = 0#16 ∧ State.reset.df.err = 0#8 ∧ State.reset.df.ready = false ∧
  State.reset.df.addr = 0#16 ∧ State.reset.df.value = 0#16 ∧
  (∀ (i : Nat) v, State.reset.ir.buf[i]? ≠ some (some v)) ∧
  (∀ (i : Nat) b, State.reset.df.buf[i]? ≠ some (some b)) ∧
  ∀ s : State, s.resetIn = true → ∃ t, step s = .next t ∧ t.ir = State.reset.ir ∧ t.df = State.reset.df ∧
    t.edgeOps = s.edgeOps ∧ t.hostOps = s.hostOps

/-- A parameter set is accepted exactly when R6 holds of it: non-empty, pairwise disjoint windows within 0..65535 and
STALL_LIMIT at most 65534; any other is refused as BadConfig, before any operation (R181, R203). -/
def Obligations.IllegalParametersAreRefused : Prop :=
  ∀ p : Params,
    instantiate p =
      if (p.leader.min ≤ p.leader.max ∧ p.leader.max ≤ 65535) ∧ (p.one.min ≤ p.one.max ∧ p.one.max ≤ 65535) ∧
        (p.zero.min ≤ p.zero.max ∧ p.zero.max ≤ 65535) ∧
        (p.leader.max < p.one.min ∨ p.one.max < p.leader.min) ∧
        (p.leader.max < p.zero.min ∨ p.zero.max < p.leader.min) ∧
        (p.one.max < p.zero.min ∨ p.zero.max < p.one.min) ∧ p.stallLimit ≤ 65534
      then .next State.reset else .refused (.badConfig p)

/-! ### Invariants (spec/10_state.md R27, R37; spec/60_exceptions.md R180) -/

/-- The invariants hold at reset: R27 and R37 (which the spec marks as derived), and R41 for the response, whose value
(0, 0, 0) at reset is the model's choice (DESIGN CHOICE, unsafe, assumption log 4). -/
def Obligations.ResetMeetsInvariants : Prop := Inv State.reset

/-- Every step keeps the invariants R27, R37 (which the spec marks as derived) and R41 for the response, from any state
that meets them and whatever the agents present. That a RESET step leaves the response (0, 0, 0) is the model's choice
(DESIGN CHOICE, assumption log 4). -/
def Obligations.StepKeepsInvariants : Prop :=
  ∀ s t : State, Inv s → step s = .next t → Inv t

/-- No stream of operations is stopped: from any state that meets the invariants, every sequence of operations without
a reserved register number completes ("no exception, trap or fault for any operand value or stream of operands",
R180), and the invariants hold after it. -/
def Obligations.OperationStreamsComplete : Prop :=
  ∀ (s : State) (ops : List Instr), Inv s → (∀ i ∈ ops, i.wellFormed = true) →
    ∃ t, execAll ops s = .next t ∧ Inv t

/-! ### The IR sub-block (spec/40_ir_decoder.md) -/

/-- R100: the class of an interval is that of the one window it lies in, and NONE outside all three. -/
def Obligations.IntervalClassMatchesWindow : Prop :=
  ∀ v : Interval,
    (classify theParams v = .leader ↔ theParams.leader.min ≤ v.toNat ∧ v.toNat ≤ theParams.leader.max) ∧
    (classify theParams v = .one ↔ theParams.one.min ≤ v.toNat ∧ v.toNat ≤ theParams.one.max) ∧
    (classify theParams v = .zero ↔ theParams.zero.min ≤ v.toNat ∧ v.toNat ≤ theParams.zero.max) ∧
    (classify theParams v = .none ↔
      ¬(theParams.leader.min ≤ v.toNat ∧ v.toNat ≤ theParams.leader.max) ∧
      ¬(theParams.one.min ≤ v.toNat ∧ v.toNat ≤ theParams.one.max) ∧
      ¬(theParams.zero.min ≤ v.toNat ∧ v.toNat ≤ theParams.zero.max))

/-- R101, the edge source's duty: an elapsed time above 65535 ticks is presented as 65535. -/
def Obligations.PresentedIntervalSaturates : Prop :=
  ∀ elapsed : Nat, (presentedInterval elapsed).toNat = if 65535 < elapsed then 65535 else elapsed

/-- R102: the whole effect of IR_EDGE, from every state in which a capture in progress has an entry left (R27). -/
def Obligations.IrEdgeResult : Prop :=
  ∀ (iv : Interval) (s : State), (s.ir.busy = true → s.ir.ready = false → s.ir.idx ≤ 32#6) →
    exec (.irEdge iv) s = .next { s with
      resp := ⟨false, false, 0#32⟩
      ir :=
        if s.ir.ready = true then s.ir
        else if classify theParams iv = .leader then
          { buf := s.ir.buf.setIfInBounds 0 (some iv), idx := 1#6, busy := true, ready := false }
        else if s.ir.busy = false then s.ir
        else
          { buf := s.ir.buf.setIfInBounds s.ir.idx.toNat (some iv), idx := s.ir.idx + 1#6, busy := true,
            ready := decide (s.ir.idx.toNat + 1 = 33) } }

/-- R206: while a frame is ready, no sequence of edges changes anything but the (empty) response. -/
def Obligations.EdgesIgnoredWhileReady : Prop :=
  ∀ (s : State) (iv : Interval) (ivs : List Interval), s.ir.ready = true →
    execAll ((iv :: ivs).map .irEdge) s = .next { s with resp := ⟨false, false, 0#32⟩ }

/-- R104 with R103 and R51: without a ready frame IR_DECODE changes nothing and responds V = 0; with one (whose 32 data
entries are written, R27) it responds the four bytes, MSB first per byte, and the command check, and clears IR_READY,
IR_BUSY and IR_IDX. -/
def Obligations.IrDecodeResult : Prop :=
  ∀ s : State,
    (s.ir.ready = false → exec .irDecode s = .next { s with resp := ⟨false, false, 0#32⟩ }) ∧
    (s.ir.ready = true → (∀ i, 1 ≤ i → i ≤ 32 → ∃ v, s.ir.buf[i]? = some (some v)) →
      ∃ a na c nc : Byte,
        exec .irDecode s = .next { s with
          resp := ⟨true, decide (c ^^^ nc = 0xFF#8), a ++ na ++ c ++ nc⟩
          ir := { s.ir with ready := false, busy := false, idx := 0#6 } } ∧
        ∀ j v, j < 8 →
          (s.ir.buf[1 + j]? = some (some v) →
            a.getLsbD (7 - j) = decide (theParams.one.min ≤ v.toNat ∧ v.toNat ≤ theParams.one.max)) ∧
          (s.ir.buf[9 + j]? = some (some v) →
            na.getLsbD (7 - j) = decide (theParams.one.min ≤ v.toNat ∧ v.toNat ≤ theParams.one.max)) ∧
          (s.ir.buf[17 + j]? = some (some v) →
            c.getLsbD (7 - j) = decide (theParams.one.min ≤ v.toNat ∧ v.toNat ≤ theParams.one.max)) ∧
          (s.ir.buf[25 + j]? = some (some v) →
            nc.getLsbD (7 - j) = decide (theParams.one.min ≤ v.toNat ∧ v.toNat ≤ theParams.one.max)))

/-- R106: the response bit OK does not depend on the address bytes: two ready frames with the same last 16 data
entries have the same OK. -/
def Obligations.CommandCheckIgnoresAddress : Prop :=
  ∀ (s t s' t' : State), s.ir.ready = true → s'.ir.ready = true →
    (∀ i, 17 ≤ i → i ≤ 32 → s.ir.buf[i]? = s'.ir.buf[i]?) →
    exec .irDecode s = .next t → exec .irDecode s' = .next t' → t.resp.ok = t'.resp.ok

/-- R56: a frame and a pair are consumed exactly once, and reading a register again gives the same. -/
def Obligations.FramesAreConsumedOnce : Prop :=
  ∀ s t : State,
    (exec .irDecode s = .next t → exec .irDecode t = .next { t with resp := ⟨false, false, 0#32⟩ }) ∧
    (exec .dfTake s = .next t → exec .dfTake t = .next { t with resp := ⟨false, false, 0#32⟩ }) ∧
    (∀ rn, exec (.regRead rn) s = .next t → exec (.regRead rn) t = .next t)

/-- R108 item 1, and R103 for intervals outside the logic-1 window: a leader and 32 intervals of any other class,
delivered while no frame is ready, are captured; IR_DECODE then gives the 32 bits that are 1 exactly where the
interval was ONE, first interval most significant, and the decoder is idle again. -/
def Obligations.CapturedFrameDecodesMsbFirst : Prop :=
  ∀ (s : State) (lead : Interval) (ivs : List Interval), s.ir.ready = false →
    classify theParams lead = .leader → ivs.length = 32 → (∀ v ∈ ivs, classify theParams v ≠ .leader) →
    ∃ t, execAll (.irEdge lead :: ivs.map .irEdge ++ [.irDecode]) s = .next t ∧
      t.resp.v = true ∧
      (∀ j v, ivs[j]? = some v → t.resp.d.getLsbD (31 - j) = decide (classify theParams v = .one)) ∧
      t.resp.ok = decide (t.resp.d.extractLsb' 8 8 ^^^ t.resp.d.extractLsb' 0 8 = 0xFF#8) ∧
      t.ir.ready = false ∧ t.ir.busy = false ∧ t.ir.idx = 0#6 ∧ t.df = s.df

/-- R80, R105, R106: IR_FRAME with nominal intervals in their windows, then IR_DECODE, gives the four bytes back, and
OK is the check of the command bytes whatever the address bytes are. -/
def Obligations.IrFrameRoundTrip : Prop :=
  ∀ (s : State) (n : Nominals) (a na c nc : Byte), s.ir.ready = false → nominalsLegal theParams n = true →
    ∃ t, execAll (irFrame n a na c nc ++ [.irDecode]) s = .next t ∧
      t.resp = ⟨true, decide (c ^^^ nc = 0xFF#8), a ++ na ++ c ++ nc⟩

/-! ### The DF sub-block (spec/41_display_framer.md) -/

/-- R133 (with the stall count of R132): DF_RXBYTE in IDLE. -/
def Obligations.RxbyteInIdle : Prop :=
  ∀ (b : Byte) (s : State), s.df.phase = .idle →
    exec (.dfRxbyte b) s = .next { s with
      resp := ⟨false, false, 0#32⟩
      df :=
        if b = 0x5A#8 then
          { s.df with stall := 0#16, buf := s.df.buf.setIfInBounds 0 (some b), idx := 1#4, phase := .gotHdrHi }
        else { s.df with stall := 0#16 } }

/-- R134: DF_RXBYTE in GOT_HDR_HI. -/
def Obligations.RxbyteInGotHdrHi : Prop :=
  ∀ (b : Byte) (s : State), s.df.phase = .gotHdrHi →
    exec (.dfRxbyte b) s = .next { s with
      resp := ⟨false, false, 0#32⟩
      df :=
        if b = 0xA5#8 then
          { s.df with stall := 0#16, buf := s.df.buf.setIfInBounds 1 (some b), idx := 2#4, phase := .gotHdrLo }
        else if b = 0x5A#8 then
          { s.df with stall := 0#16, buf := s.df.buf.setIfInBounds 0 (some b), idx := 1#4 }
        else { s.df with stall := 0#16, idx := 0#4, phase := .idle } }

/-- R135: DF_RXBYTE in GOT_HDR_LO, the declared length. -/
def Obligations.RxbyteInGotHdrLo : Prop :=
  ∀ (b : Byte) (s : State), s.df.phase = .gotHdrLo →
    exec (.dfRxbyte b) s = .next { s with
      resp := ⟨false, false, 0#32⟩
      df :=
        if 3 ≤ b.toNat ∧ b.toNat ≤ 9 then
          { s.df with
            stall := 0#16, buf := s.df.buf.setIfInBounds 2 (some b), idx := 3#4, len := b, phase := .receiving }
        else
          { s.df with stall := 0#16, idx := 0#4, phase := .idle, err := errSucc theParams.errMode s.df.err } }

/-- R136: a byte in RECEIVING that does not complete the frame is appended, whatever its value. -/
def Obligations.RxbyteInReceivingAppends : Prop :=
  ∀ (b : Byte) (s : State), s.df.phase = .receiving → s.df.idx.toNat + 1 < 3 + s.df.len.toNat →
    s.df.idx.toNat < 12 →
    exec (.dfRxbyte b) s = .next { s with
      resp := ⟨false, false, 0#32⟩
      df := { s.df with
        stall := 0#16, buf := s.df.buf.setIfInBounds s.df.idx.toNat (some b), idx := s.df.idx + 1#4 } }

/-- R137: at capacity the byte is dropped, the error counted and the framer idle. -/
def Obligations.CapacityCheckDropsByte : Prop :=
  ∀ (b : Byte) (s : State), s.df.phase = .receiving → 12 ≤ s.df.idx.toNat →
    exec (.dfRxbyte b) s = .next { s with
      resp := ⟨false, false, 0#32⟩
      df := { s.df with
        stall := 0#16, idx := 0#4, phase := .idle, err := errSucc theParams.errMode s.df.err } }

/-- "Under rules R135 and R136 the check never fires" (which the spec marks as derived from R37): no state that meets
the invariants is at capacity in RECEIVING. -/
def Obligations.CapacityCheckNeverFires : Prop :=
  ∀ s : State, Inv s → s.df.phase = .receiving → s.df.idx.toNat < 12

/-- R138: the byte that completes a frame. `e i` is entry i of the buffer with the byte appended. The pair and
DF_READY are written together, and only for a recognised command with L ≥ 6; every completion returns to IDLE. -/
def Obligations.RxbyteCompletesFrame : Prop :=
  ∀ (b : Byte) (s : State) (e : Nat → Byte), DfInv theParams s.df → s.df.phase = .receiving →
    s.df.idx.toNat + 1 = 3 + s.df.len.toNat →
    (∀ i v, (s.df.buf.setIfInBounds s.df.idx.toNat (some b))[i]? = some (some v) → e i = v) →
    exec (.dfRxbyte b) s = .next { s with
      resp := ⟨false, false, 0#32⟩
      df :=
        if (e 3 = 0x82#8 ∨ e 3 = 0x83#8) ∧ 6 ≤ s.df.len.toNat then
          { s.df with
            buf := s.df.buf.setIfInBounds s.df.idx.toNat (some b), phase := .idle, idx := 0#4, stall := 0#16,
            addr := e 4 ++ e 5, value := e 7 ++ e 8, ready := true }
        else
          { s.df with
            buf := s.df.buf.setIfInBounds s.df.idx.toNat (some b), phase := .idle, idx := 0#4, stall := 0#16 } }

/-- R139, R182: an operation counts one error exactly when it is one of the three framing errors, and otherwise leaves
DF_ERR as it was; the count stays at 255 or goes on at 0, by ERR_MODE. -/
def Obligations.FramingErrorsAreCounted : Prop :=
  ∀ (i : Instr) (s t : State), exec i s = .next t →
    (framingError i s → t.df.err.toNat = match theParams.errMode with
      | .saturate => min 255 (s.df.err.toNat + 1)
      | .wrap => (s.df.err.toNat + 1) % 256) ∧
    (¬framingError i s → t.df.err = s.df.err)

/-- R33 "No operation clears it", for every parameter set that saturates (the spec's decision): no operation that
writes DF state lowers DF_ERR. -/
def Obligations.SaturatingErrorCountNeverFalls : Prop :=
  ∀ (p : Params) (s t : State), p.errMode = .saturate →
    (∀ b, dfRxbyte p b s = .next t → s.df.err ≤ t.df.err) ∧ (dfIdle p s = .next t → s.df.err ≤ t.df.err) ∧
    (execDfTake s = .next t → t.df.err = s.df.err)

/-- R140: the whole effect of DF_IDLE. -/
def Obligations.DfIdleResult : Prop :=
  ∀ s : State,
    exec .dfIdle s = .next { s with
      resp := ⟨false, false, 0#32⟩
      df :=
        if s.df.phase = .idle then s.df
        else if theParams.stallLimit < (s.df.stall + 1#16).toNat then
          { s.df with phase := .idle, idx := 0#4, stall := 0#16, err := errSucc theParams.errMode s.df.err }
        else { s.df with stall := s.df.stall + 1#16 } }

/-- R140, R143 item 4: from a stall count of 0 outside IDLE, up to STALL_LIMIT consecutive empty polls leave the frame
in place and only count; any larger number of them returns to IDLE with exactly one error counted. -/
def Obligations.StalledFrameCountsOneError : Prop :=
  ∀ (s : State) (n : Nat), s.df.phase ≠ .idle → s.df.stall = 0#16 →
    (n ≤ theParams.stallLimit →
      execAll (List.replicate n .dfIdle) s = .next { s with
        resp := if n = 0 then s.resp else ⟨false, false, 0#32⟩
        df := { s.df with stall := BitVec.ofNat 16 n } }) ∧
    (theParams.stallLimit < n →
      execAll (List.replicate n .dfIdle) s = .next { s with
        resp := ⟨false, false, 0#32⟩
        df := { s.df with
          phase := .idle, idx := 0#4, stall := 0#16, err := errSucc theParams.errMode s.df.err } })

/-- R142: from any non-idle state that meets the invariants, STALL_LIMIT + 1 consecutive empty polls bring DF_STATE to
IDLE. -/
def Obligations.EmptyPollsReachIdle : Prop :=
  ∀ s : State, Inv s → s.df.phase ≠ .idle →
    ∃ t, execAll (List.replicate (theParams.stallLimit + 1) .dfIdle) s = .next t ∧ t.df.phase = .idle

/-- R142: whatever the bytes are, at most 9 of them bring RECEIVING to IDLE and at most 10 bring GOT_HDR_LO to IDLE; a
byte other than 0x5A takes GOT_HDR_HI to GOT_HDR_LO or IDLE. -/
def Obligations.BytesReachIdle : Prop :=
  ∀ s : State, Inv s →
    (∀ bs : List Byte, s.df.phase = .receiving → bs.length = 9 →
      ∃ k t, k ≤ 9 ∧ execAll ((bs.take k).map .dfRxbyte) s = .next t ∧ t.df.phase = .idle) ∧
    (∀ bs : List Byte, s.df.phase = .gotHdrLo → bs.length = 10 →
      ∃ k t, k ≤ 10 ∧ execAll ((bs.take k).map .dfRxbyte) s = .next t ∧ t.df.phase = .idle) ∧
    (∀ b : Byte, s.df.phase = .gotHdrHi → b ≠ 0x5A#8 →
      ∃ t, exec (.dfRxbyte b) s = .next t ∧ (t.df.phase = .gotHdrLo ∨ t.df.phase = .idle))

/-- R131, R134, R138, R143 items 1 and 2: from IDLE, one or more 0x5A, then 0xA5, a length L from 6 to 9, a recognised
command and L - 1 further bytes leave the pair (bytes 1-2, bytes 4-5 of them) ready, count no error, and return to
IDLE. -/
def Obligations.PayloadFrameIsParsed : Prop :=
  ∀ (s : State) (n : Nat) (l cmd a1 a0 x v1 v0 : Byte) (rest : List Byte), s.df.phase = .idle →
    6 ≤ l.toNat → l.toNat ≤ 9 → (cmd = 0x82#8 ∨ cmd = 0x83#8) → rest.length + 6 = l.toNat →
    ∃ t, execAll ((List.replicate (n + 1) 0x5A#8 ++ [0xA5#8, l, cmd, a1, a0, x, v1, v0] ++ rest).map .dfRxbyte) s
        = .next t ∧
      t.df.phase = .idle ∧ t.df.idx = 0#4 ∧ t.df.len = l ∧ t.df.stall = 0#16 ∧ t.df.err = s.df.err ∧
      t.df.ready = true ∧ t.df.addr = a1 ++ a0 ∧ t.df.value = v1 ++ v0 ∧ t.ir = s.ir

/-- R138: from IDLE, any frame of a legal length L whose command is not recognised or whose L is below 6 returns to
IDLE, counts no error and latches nothing. -/
def Obligations.UselessFrameLatchesNothing : Prop :=
  ∀ (s : State) (n : Nat) (l cmd : Byte) (rest : List Byte), s.df.phase = .idle →
    3 ≤ l.toNat → l.toNat ≤ 9 → (l.toNat < 6 ∨ (cmd ≠ 0x82#8 ∧ cmd ≠ 0x83#8)) → rest.length + 1 = l.toNat →
    ∃ t, execAll ((List.replicate (n + 1) 0x5A#8 ++ [0xA5#8, l, cmd] ++ rest).map .dfRxbyte) s = .next t ∧
      t.df.phase = .idle ∧ t.df.idx = 0#4 ∧ t.df.len = l ∧ t.df.stall = 0#16 ∧ t.df.err = s.df.err ∧
      t.df.ready = s.df.ready ∧ t.df.addr = s.df.addr ∧ t.df.value = s.df.value ∧ t.ir = s.ir

/-- R135, R143 item 3: from IDLE, a header followed by an illegal length returns to IDLE and counts one error, and
nothing else of the latches changes. -/
def Obligations.IllegalLengthIsRejected : Prop :=
  ∀ (s : State) (n : Nat) (l : Byte), s.df.phase = .idle → ¬(3 ≤ l.toNat ∧ l.toNat ≤ 9) →
    ∃ t, execAll ((List.replicate (n + 1) 0x5A#8 ++ [0xA5#8, l]).map .dfRxbyte) s = .next t ∧
      t.df.phase = .idle ∧ t.df.idx = 0#4 ∧ t.df.len = s.df.len ∧ t.df.stall = 0#16 ∧
      t.df.err = errSucc theParams.errMode s.df.err ∧
      t.df.ready = s.df.ready ∧ t.df.addr = s.df.addr ∧ t.df.value = s.df.value ∧ t.ir = s.ir

/-- R208: two payload frames complete at least 9 received bytes apart: from IDLE, no sequence of operations with at most
8 DF_RXBYTE and without DF_TAKE changes DF_READY or the latched pair. -/
def Obligations.PairSurvivesEightBytes : Prop :=
  ∀ (s t : State) (ops : List Instr), Inv s → s.df.phase = .idle → ops.countP isRxbyteOp ≤ 8 → .dfTake ∉ ops →
    execAll ops s = .next t →
    t.df.ready = s.df.ready ∧ t.df.addr = s.df.addr ∧ t.df.value = s.df.value

/-- R79: an invocation of the parser that finds bytes is only DF_RXBYTE operations and leaves no stall counted; one
that finds none is one DF_IDLE. -/
def Obligations.PollWithBytesIsNoStall : Prop :=
  dfPoll [] = [.dfIdle] ∧
  ∀ (b : Byte) (bs : List Byte), dfPoll (b :: bs) = (b :: bs).map .dfRxbyte ∧
    ∀ s : State, Inv s → ∃ t, execAll (dfPoll (b :: bs)) s = .next t ∧ t.df.stall = 0#16

/-- R141: the whole effect of DF_TAKE. -/
def Obligations.DfTakeResult : Prop :=
  ∀ s : State,
    exec .dfTake s = .next (if s.df.ready = true
      then { s with resp := ⟨true, false, s.df.addr ++ s.df.value⟩, df := { s.df with ready := false } }
      else { s with resp := ⟨false, false, 0#32⟩ })

/-- R35, R36, R138: the latches change only when a frame of at least 6 declared bytes completes, and then DF_READY is
set with them. -/
def Obligations.LatchesChangeOnlyAtCompletion : Prop :=
  ∀ (i : Instr) (s t : State), exec i s = .next t → (t.df.addr ≠ s.df.addr ∨ t.df.value ≠ s.df.value) →
    t.df.ready = true ∧ s.df.phase = .receiving ∧ t.df.phase = .idle ∧ 6 ≤ s.df.len.toNat ∧ ∃ b, i = .dfRxbyte b

/-! ### Host register access (spec/42_host_access.md, spec/10_state.md R39) -/

/-- R170: REG_READ of each defined register responds its value, zero-extended, and changes nothing else; every other
number is refused by name. -/
def Obligations.RegReadResult : Prop :=
  ∀ (s : State) (rn : RegNum),
    (∀ r : Nat,
      [4 * (!s.ir.ready).toNat + 2 * s.ir.busy.toNat + s.ir.ready.toNat, s.ir.idx.toNat,
          4 * s.df.ready.toNat + (match s.df.phase with
            | .idle => 0
            | .gotHdrHi => 1
            | .gotHdrLo => 2
            | .receiving => 3),
          s.df.idx.toNat, s.df.len.toNat, s.df.stall.toNat, s.df.err.toNat, s.df.addr.toNat,
          s.df.value.toNat][rn.toNat]? = some r →
      exec (.regRead rn) s = .next { s with resp := ⟨true, false, BitVec.ofNat 32 r⟩ }) ∧
    (9 ≤ rn.toNat → exec (.regRead rn) s = .refused (.reservedReg rn))

/-- R40: a reserved register number is refused by name; a defined one writes no state; and the reserved bits of every
register read 0. -/
def Obligations.RegisterWindowIsReadOnly : Prop :=
  (∀ (s : State) (rn : RegNum), 9 ≤ rn.toNat → exec (.regRead rn) s = .refused (.reservedReg rn)) ∧
  ∀ (s t : State) (rn : RegNum), exec (.regRead rn) s = .next t →
    t = { s with resp := t.resp } ∧
    ∃ width, [3, 6, 3, 4, 8, 16, 8, 16, 16][rn.toNat]? = some width ∧ t.resp.d.toNat < 2 ^ width

/-- R170: in a state that meets R27, IR_STATUS reads 0x0004, 0x0006 or 0x0003 only. -/
def Obligations.IrStatusReadsThreeValues : Prop :=
  ∀ s t : State, Inv s → exec (.regRead 0) s = .next t →
    t.resp.d = 0x0004#32 ∨ t.resp.d = 0x0006#32 ∨ t.resp.d = 0x0003#32

/-- R44: the host sees nothing of the buffers but through a ready IR frame and a completed DF frame: with other buffer
contents, REG_READ, DF_TAKE, DF_IDLE and an early IR_DECODE do the same. -/
def Obligations.HostDoesNotSeeBuffers : Prop :=
  ∀ (s t : State) (i : Instr) (irBuf : Vector (Option Interval) 33) (dfBuf : Vector (Option Byte) 12),
    ((∃ rn, i = .regRead rn) ∨ i = .dfTake ∨ i = .dfIdle ∨ (i = .irDecode ∧ s.ir.ready = false)) →
    exec i s = .next t →
    exec i { s with ir := { s.ir with buf := irBuf }, df := { s.df with buf := dfBuf } } =
      .next { t with ir := { t.ir with buf := irBuf }, df := { t.df with buf := dfBuf } }

/-! ### The whole block -/

/-- R61: an IR operation and a DF operation commute: in either order the same state (but for which response was the
last) and the same two responses. -/
def Obligations.IrAndDfOperationsCommute : Prop :=
  ∀ (i j : Instr) (s t u : State), isIrOp i → isDfOp j → exec i s = .next t → exec j t = .next u →
    ∃ t' u', exec j s = .next t' ∧ exec i t' = .next u' ∧
      u' = { u with resp := u'.resp } ∧ u'.resp = t.resp ∧ t'.resp = u.resp

/-- R20, R61: no operation writes the other sub-block's state or a port but RESP, and REG_READ writes neither
sub-block. -/
def Obligations.OperationsWriteOwnSubBlock : Prop :=
  ∀ (i : Instr) (s t : State), exec i s = .next t →
    t = { s with ir := t.ir, df := t.df, resp := t.resp } ∧
    (isIrOp i → t.df = s.df) ∧ (isDfOp i → t.ir = s.ir) ∧
    (∀ rn, i = .regRead rn → t.ir = s.ir ∧ t.df = s.df)

/-- R41: D and OK are 0 without V, OK is set by IR_DECODE only, and IR_EDGE, DF_RXBYTE and DF_IDLE always respond
(0, 0, 0). -/
def Obligations.ResponsesFollowTheirOperation : Prop :=
  ∀ (i : Instr) (s t : State), exec i s = .next t →
    (t.resp.v = false → t.resp.ok = false ∧ t.resp.d = 0#32) ∧
    (t.resp.ok = true → i = .irDecode ∧ t.resp.v = true) ∧
    (((∃ iv, i = .irEdge iv) ∨ (∃ b, i = .dfRxbyte b) ∨ i = .dfIdle) → t.resp = ⟨false, false, 0#32⟩)

/-- R184, R63: IR_READY_IRQ is raised by IR_EDGE only and cleared by IR_DECODE only; DF_READY_IRQ is raised by
DF_RXBYTE only and cleared by DF_TAKE only; IR_EDGE_EN is NOT IR_READY (R26). -/
def Obligations.ReadyOutputsRiseAndFall : Prop :=
  ∀ (i : Instr) (s t : State), exec i s = .next t →
    (s.irReadyIrq = false → t.irReadyIrq = true →
      ∃ iv, i = .irEdge iv ∧ s.ir.busy = true ∧ s.ir.idx = 32#6 ∧ t.ir.idx = 33#6) ∧
    (s.irReadyIrq = true → t.irReadyIrq = false → i = .irDecode) ∧
    (s.dfReadyIrq = false → t.dfReadyIrq = true → ∃ b, i = .dfRxbyte b ∧ s.df.phase = .receiving) ∧
    (s.dfReadyIrq = true → t.dfReadyIrq = false → i = .dfTake) ∧
    t.irEdgeEn = !t.irReadyIrq
end

