-- ==== Sys2Proof/Laws/State.lean ====
section
/-! SUPPORT. One lemma per field per update of the state, true by rfl. -/

namespace Sys2Proof.Machine

/-! ### State.setIr -/

@[simp] theorem State.setIr_ir (s : State) (ir : IrState) :
    (s.setIr ir).ir = ir := rfl

@[simp] theorem State.setIr_df (s : State) (ir : IrState) :
    (s.setIr ir).df = s.df := rfl

@[simp] theorem State.setIr_resp (s : State) (ir : IrState) :
    (s.setIr ir).resp = s.resp := rfl

@[simp] theorem State.setIr_resetIn (s : State) (ir : IrState) :
    (s.setIr ir).resetIn = s.resetIn := rfl

@[simp] theorem State.setIr_edgeOps (s : State) (ir : IrState) :
    (s.setIr ir).edgeOps = s.edgeOps := rfl

@[simp] theorem State.setIr_hostOps (s : State) (ir : IrState) :
    (s.setIr ir).hostOps = s.hostOps := rfl

@[simp] theorem State.setIr_draws (s : State) (ir : IrState) :
    (s.setIr ir).draws = s.draws := rfl

/-! ### State.setDf -/

@[simp] theorem State.setDf_ir (s : State) (df : DfState) :
    (s.setDf df).ir = s.ir := rfl

@[simp] theorem State.setDf_df (s : State) (df : DfState) :
    (s.setDf df).df = df := rfl

@[simp] theorem State.setDf_resp (s : State) (df : DfState) :
    (s.setDf df).resp = s.resp := rfl

@[simp] theorem State.setDf_resetIn (s : State) (df : DfState) :
    (s.setDf df).resetIn = s.resetIn := rfl

@[simp] theorem State.setDf_edgeOps (s : State) (df : DfState) :
    (s.setDf df).edgeOps = s.edgeOps := rfl

@[simp] theorem State.setDf_hostOps (s : State) (df : DfState) :
    (s.setDf df).hostOps = s.hostOps := rfl

@[simp] theorem State.setDf_draws (s : State) (df : DfState) :
    (s.setDf df).draws = s.draws := rfl

/-! ### State.respond -/

@[simp] theorem State.respond_ir (s : State) (r : Response) :
    (s.respond r).ir = s.ir := rfl

@[simp] theorem State.respond_df (s : State) (r : Response) :
    (s.respond r).df = s.df := rfl

@[simp] theorem State.respond_resp (s : State) (r : Response) :
    (s.respond r).resp = r := rfl

@[simp] theorem State.respond_resetIn (s : State) (r : Response) :
    (s.respond r).resetIn = s.resetIn := rfl

@[simp] theorem State.respond_edgeOps (s : State) (r : Response) :
    (s.respond r).edgeOps = s.edgeOps := rfl

@[simp] theorem State.respond_hostOps (s : State) (r : Response) :
    (s.respond r).hostOps = s.hostOps := rfl

@[simp] theorem State.respond_draws (s : State) (r : Response) :
    (s.respond r).draws = s.draws := rfl

/-! ### State.takeReset (R200) -/

@[simp] theorem State.takeReset_ir (s : State) :
    (s.takeReset).ir = IrState.reset := rfl

@[simp] theorem State.takeReset_df (s : State) :
    (s.takeReset).df = DfState.reset := rfl

@[simp] theorem State.takeReset_resp (s : State) :
    (s.takeReset).resp = Response.none := rfl

@[simp] theorem State.takeReset_resetIn (s : State) :
    (s.takeReset).resetIn = false := rfl

@[simp] theorem State.takeReset_edgeOps (s : State) :
    (s.takeReset).edgeOps = s.edgeOps := rfl

@[simp] theorem State.takeReset_hostOps (s : State) :
    (s.takeReset).hostOps = s.hostOps := rfl

@[simp] theorem State.takeReset_draws (s : State) :
    (s.takeReset).draws = s.draws := rfl

/-! ### State.presentWord -/

@[simp] theorem State.presentWord_ir (s : State) (nbits w : Nat) :
    (s.presentWord nbits w).ir = s.ir := rfl

@[simp] theorem State.presentWord_df (s : State) (nbits w : Nat) :
    (s.presentWord nbits w).df = s.df := rfl

@[simp] theorem State.presentWord_resp (s : State) (nbits w : Nat) :
    (s.presentWord nbits w).resp = s.resp := rfl

@[simp] theorem State.presentWord_resetIn (s : State) (nbits w : Nat) :
    (s.presentWord nbits w).resetIn = false := rfl

@[simp] theorem State.presentWord_edgeOps (s : State) (nbits w : Nat) :
    (s.presentWord nbits w).edgeOps = [] := rfl

@[simp] theorem State.presentWord_hostOps (s : State) (nbits w : Nat) :
    (s.presentWord nbits w).hostOps = tableWord nbits w :: s.hostOps := rfl

@[simp] theorem State.presentWord_draws (s : State) (nbits w : Nat) :
    (s.presentWord nbits w).draws = s.draws := rfl

/-! ### IrState.write -/

@[simp] theorem IrState.write_buf (ir : IrState) (i : Nat) (v : Interval) :
    (ir.write i v).buf = ir.buf.setIfInBounds i (some v) := rfl

@[simp] theorem IrState.write_idx (ir : IrState) (i : Nat) (v : Interval) :
    (ir.write i v).idx = ir.idx := rfl

@[simp] theorem IrState.write_busy (ir : IrState) (i : Nat) (v : Interval) :
    (ir.write i v).busy = ir.busy := rfl

@[simp] theorem IrState.write_ready (ir : IrState) (i : Nat) (v : Interval) :
    (ir.write i v).ready = ir.ready := rfl

/-! ### IrState.startCapture (R102) -/

@[simp] theorem IrState.startCapture_buf (ir : IrState) (iv : Interval) :
    (ir.startCapture iv).buf = ir.buf.setIfInBounds 0 (some iv) := rfl

@[simp] theorem IrState.startCapture_idx (ir : IrState) (iv : Interval) :
    (ir.startCapture iv).idx = 1#6 := rfl

@[simp] theorem IrState.startCapture_busy (ir : IrState) (iv : Interval) :
    (ir.startCapture iv).busy = true := rfl

@[simp] theorem IrState.startCapture_ready (ir : IrState) (iv : Interval) :
    (ir.startCapture iv).ready = ir.ready := rfl

/-! ### IrState.append (R102) -/

@[simp] theorem IrState.append_buf (ir : IrState) (iv : Interval) :
    (ir.append iv).buf = ir.buf.setIfInBounds ir.idx.toNat (some iv) := rfl

@[simp] theorem IrState.append_idx (ir : IrState) (iv : Interval) :
    (ir.append iv).idx = ir.idx + 1#6 := rfl

@[simp] theorem IrState.append_busy (ir : IrState) (iv : Interval) :
    (ir.append iv).busy = ir.busy := rfl

@[simp] theorem IrState.append_ready (ir : IrState) (iv : Interval) :
    (ir.append iv).ready = (ir.ready || (ir.idx + 1#6).toNat == irCap) := rfl

/-! ### IrState.release (R104) -/

@[simp] theorem IrState.release_buf (ir : IrState) :
    (ir.release).buf = ir.buf := rfl

@[simp] theorem IrState.release_idx (ir : IrState) :
    (ir.release).idx = 0#6 := rfl

@[simp] theorem IrState.release_busy (ir : IrState) :
    (ir.release).busy = false := rfl

@[simp] theorem IrState.release_ready (ir : IrState) :
    (ir.release).ready = false := rfl

/-! ### DfState.write -/

@[simp] theorem DfState.write_phase (df : DfState) (i : Nat) (b : Byte) :
    (df.write i b).phase = df.phase := rfl

@[simp] theorem DfState.write_buf (df : DfState) (i : Nat) (b : Byte) :
    (df.write i b).buf = df.buf.setIfInBounds i (some b) := rfl

@[simp] theorem DfState.write_idx (df : DfState) (i : Nat) (b : Byte) :
    (df.write i b).idx = df.idx := rfl

@[simp] theorem DfState.write_len (df : DfState) (i : Nat) (b : Byte) :
    (df.write i b).len = df.len := rfl

@[simp] theorem DfState.write_stall (df : DfState) (i : Nat) (b : Byte) :
    (df.write i b).stall = df.stall := rfl

@[simp] theorem DfState.write_err (df : DfState) (i : Nat) (b : Byte) :
    (df.write i b).err = df.err := rfl

@[simp] theorem DfState.write_ready (df : DfState) (i : Nat) (b : Byte) :
    (df.write i b).ready = df.ready := rfl

@[simp] theorem DfState.write_addr (df : DfState) (i : Nat) (b : Byte) :
    (df.write i b).addr = df.addr := rfl

@[simp] theorem DfState.write_value (df : DfState) (i : Nat) (b : Byte) :
    (df.write i b).value = df.value := rfl

/-! ### DfState.toIdle (R132) -/

@[simp] theorem DfState.toIdle_phase (df : DfState) :
    (df.toIdle).phase = .idle := rfl

@[simp] theorem DfState.toIdle_buf (df : DfState) :
    (df.toIdle).buf = df.buf := rfl

@[simp] theorem DfState.toIdle_idx (df : DfState) :
    (df.toIdle).idx = 0#4 := rfl

@[simp] theorem DfState.toIdle_len (df : DfState) :
    (df.toIdle).len = df.len := rfl

@[simp] theorem DfState.toIdle_stall (df : DfState) :
    (df.toIdle).stall = 0#16 := rfl

@[simp] theorem DfState.toIdle_err (df : DfState) :
    (df.toIdle).err = df.err := rfl

@[simp] theorem DfState.toIdle_ready (df : DfState) :
    (df.toIdle).ready = df.ready := rfl

@[simp] theorem DfState.toIdle_addr (df : DfState) :
    (df.toIdle).addr = df.addr := rfl

@[simp] theorem DfState.toIdle_value (df : DfState) :
    (df.toIdle).value = df.value := rfl

/-! ### DfState.errInc (R139) -/

@[simp] theorem DfState.errInc_phase (p : Params) (df : DfState) :
    (df.errInc p).phase = df.phase := rfl

@[simp] theorem DfState.errInc_buf (p : Params) (df : DfState) :
    (df.errInc p).buf = df.buf := rfl

@[simp] theorem DfState.errInc_idx (p : Params) (df : DfState) :
    (df.errInc p).idx = df.idx := rfl

@[simp] theorem DfState.errInc_len (p : Params) (df : DfState) :
    (df.errInc p).len = df.len := rfl

@[simp] theorem DfState.errInc_stall (p : Params) (df : DfState) :
    (df.errInc p).stall = df.stall := rfl

@[simp] theorem DfState.errInc_err (p : Params) (df : DfState) :
    (df.errInc p).err = errSucc p.errMode df.err := rfl

@[simp] theorem DfState.errInc_ready (p : Params) (df : DfState) :
    (df.errInc p).ready = df.ready := rfl

@[simp] theorem DfState.errInc_addr (p : Params) (df : DfState) :
    (df.errInc p).addr = df.addr := rfl

@[simp] theorem DfState.errInc_value (p : Params) (df : DfState) :
    (df.errInc p).value = df.value := rfl

/-! ### DfState.append (R136) -/

@[simp] theorem DfState.append_phase (df : DfState) (b : Byte) :
    (df.append b).phase = df.phase := rfl

@[simp] theorem DfState.append_buf (df : DfState) (b : Byte) :
    (df.append b).buf = df.buf.setIfInBounds df.idx.toNat (some b) := rfl

@[simp] theorem DfState.append_idx (df : DfState) (b : Byte) :
    (df.append b).idx = df.idx + 1#4 := rfl

@[simp] theorem DfState.append_len (df : DfState) (b : Byte) :
    (df.append b).len = df.len := rfl

@[simp] theorem DfState.append_stall (df : DfState) (b : Byte) :
    (df.append b).stall = df.stall := rfl

@[simp] theorem DfState.append_err (df : DfState) (b : Byte) :
    (df.append b).err = df.err := rfl

@[simp] theorem DfState.append_ready (df : DfState) (b : Byte) :
    (df.append b).ready = df.ready := rfl

@[simp] theorem DfState.append_addr (df : DfState) (b : Byte) :
    (df.append b).addr = df.addr := rfl

@[simp] theorem DfState.append_value (df : DfState) (b : Byte) :
    (df.append b).value = df.value := rfl

/-! ### DfState.countStall (R140) -/

@[simp] theorem DfState.countStall_phase (df : DfState) :
    (df.countStall).phase = df.phase := rfl

@[simp] theorem DfState.countStall_buf (df : DfState) :
    (df.countStall).buf = df.buf := rfl

@[simp] theorem DfState.countStall_idx (df : DfState) :
    (df.countStall).idx = df.idx := rfl

@[simp] theorem DfState.countStall_len (df : DfState) :
    (df.countStall).len = df.len := rfl

@[simp] theorem DfState.countStall_stall (df : DfState) :
    (df.countStall).stall = df.stall + 1#16 := rfl

@[simp] theorem DfState.countStall_err (df : DfState) :
    (df.countStall).err = df.err := rfl

@[simp] theorem DfState.countStall_ready (df : DfState) :
    (df.countStall).ready = df.ready := rfl

@[simp] theorem DfState.countStall_addr (df : DfState) :
    (df.countStall).addr = df.addr := rfl

@[simp] theorem DfState.countStall_value (df : DfState) :
    (df.countStall).value = df.value := rfl

/-! ### DfState.takePair (R141) -/

@[simp] theorem DfState.takePair_phase (df : DfState) :
    (df.takePair).phase = df.phase := rfl

@[simp] theorem DfState.takePair_buf (df : DfState) :
    (df.takePair).buf = df.buf := rfl

@[simp] theorem DfState.takePair_idx (df : DfState) :
    (df.takePair).idx = df.idx := rfl

@[simp] theorem DfState.takePair_len (df : DfState) :
    (df.takePair).len = df.len := rfl

@[simp] theorem DfState.takePair_stall (df : DfState) :
    (df.takePair).stall = df.stall := rfl

@[simp] theorem DfState.takePair_err (df : DfState) :
    (df.takePair).err = df.err := rfl

@[simp] theorem DfState.takePair_ready (df : DfState) :
    (df.takePair).ready = false := rfl

@[simp] theorem DfState.takePair_addr (df : DfState) :
    (df.takePair).addr = df.addr := rfl

@[simp] theorem DfState.takePair_value (df : DfState) :
    (df.takePair).value = df.value := rfl

/-! ### DfState.clearStall (R132) -/

@[simp] theorem DfState.clearStall_phase (df : DfState) :
    (df.clearStall).phase = df.phase := rfl

@[simp] theorem DfState.clearStall_buf (df : DfState) :
    (df.clearStall).buf = df.buf := rfl

@[simp] theorem DfState.clearStall_idx (df : DfState) :
    (df.clearStall).idx = df.idx := rfl

@[simp] theorem DfState.clearStall_len (df : DfState) :
    (df.clearStall).len = df.len := rfl

@[simp] theorem DfState.clearStall_stall (df : DfState) :
    (df.clearStall).stall = 0#16 := rfl

@[simp] theorem DfState.clearStall_err (df : DfState) :
    (df.clearStall).err = df.err := rfl

@[simp] theorem DfState.clearStall_ready (df : DfState) :
    (df.clearStall).ready = df.ready := rfl

@[simp] theorem DfState.clearStall_addr (df : DfState) :
    (df.clearStall).addr = df.addr := rfl

@[simp] theorem DfState.clearStall_value (df : DfState) :
    (df.clearStall).value = df.value := rfl

end Sys2Proof.Machine
end

