-- ==== Sys2Proof/Laws/Ops.lean ====
section
/-! SUPPORT. One lemma per shared operation that says once what it can do. -/

namespace Sys2Proof.Machine

@[simp] theorem irCap_eq : irCap = 33 := rfl

@[simp] theorem dfCap_eq : dfCap = 12 := rfl

/-! ### The buffers -/

theorem IrState.read_eq_ok {ir : IrState} {i : Nat} {v : Interval} :
    ir.read i = .ok v ↔ ir.buf[i]? = some (some v) := by
  unfold IrState.read
  split <;> simp_all

theorem DfState.read_eq_ok {df : DfState} {i : Nat} {b : Byte} :
    df.read i = .ok b ↔ df.buf[i]? = some (some b) := by
  unfold DfState.read
  split <;> simp_all

/-- A write is read back at its own index. -/
theorem buf_set_same {α : Type} {n i : Nat} (buf : Vector (Option α) n) (v : α) (h : i < n) :
    (buf.setIfInBounds i (some v))[i]? = some (some v) := by
  simp [h]

/-- A write leaves every other entry alone. -/
theorem buf_set_other {α : Type} {n i j : Nat} (buf : Vector (Option α) n) (v : α) (h : i ≠ j) :
    (buf.setIfInBounds i (some v))[j]? = buf[j]? := by
  simp [h]

/-! ### Parameters and classes -/

/-- What a legal parameter set satisfies (R6). -/
theorem Params.legal_iff (p : Params) :
    p.legal = true ↔
      (p.leader.min ≤ p.leader.max ∧ p.leader.max ≤ 65535) ∧ (p.one.min ≤ p.one.max ∧ p.one.max ≤ 65535) ∧
      (p.zero.min ≤ p.zero.max ∧ p.zero.max ≤ 65535) ∧
      (p.leader.max < p.one.min ∨ p.one.max < p.leader.min) ∧
      (p.leader.max < p.zero.min ∨ p.zero.max < p.leader.min) ∧
      (p.one.max < p.zero.min ∨ p.zero.max < p.one.min) ∧ p.stallLimit ≤ 65534 := by
  simp [Params.legal, Window.wf, Window.disjoint, and_assoc]

theorem theParams_legal : theParams.legal = true := Config.params.isLegal

theorem inWindow_iff (w : Window) (v : Interval) : inWindow w v = true ↔ w.min ≤ v.toNat ∧ v.toNat ≤ w.max := by
  simp [inWindow]

/-- The windows are disjoint, so an interval of the logic-1 window is of class ONE and no other (R100). -/
theorem classify_eq_one_iff {p : Params} (hp : p.legal = true) (v : Interval) :
    classify p v = .one ↔ inOne p v = true := by
  have h := (Params.legal_iff p).mp hp
  unfold classify inLeader inOne inZero
  simp only [inWindow_iff]
  split_ifs with h1 h2 h3
  · constructor
    · intro hc; cases hc
    · intro h2; omega
  · simp [h2]
  · simp [h2]
  · simp [h2]

/-- The least interval of a window of a legal set lies in it. -/
theorem inWindow_min {w : Window} (h : w.min ≤ w.max ∧ w.max ≤ 65535) : inWindow w (BitVec.ofNat 16 w.min) = true := by
  have e : (BitVec.ofNat 16 w.min).toNat = w.min := by simp; omega
  rw [inWindow_iff, e]
  omega

/-- The least interval of the leader window is of class LEADER. -/
theorem classify_leader_min : classify theParams (BitVec.ofNat 16 theParams.leader.min) = .leader := by
  have h := (Params.legal_iff theParams).mp theParams_legal
  simp [classify, inLeader, inWindow_min h.1]

/-- The least interval of the logic-1 window is of class ONE. -/
theorem classify_one_min : classify theParams (BitVec.ofNat 16 theParams.one.min) = .one := by
  have h := (Params.legal_iff theParams).mp theParams_legal
  exact (classify_eq_one_iff theParams_legal _).mpr (inWindow_min h.2.1)

/-! ### Packing of a response (R53) -/

/-- The bits of four bytes packed with the first in the most significant place. -/
theorem pack4_getLsbD (a b c d : Byte) (i : Nat) :
    (a ++ b ++ c ++ d : Word).getLsbD i =
      if i < 8 then d.getLsbD i else if i < 16 then c.getLsbD (i - 8)
      else if i < 24 then b.getLsbD (i - 16) else a.getLsbD (i - 24) := by
  rw [BitVec.getLsbD_append, BitVec.getLsbD_append, BitVec.getLsbD_append]
  split_ifs <;> first | rfl | omega

/-! ### The byte decode (R103) -/

/-- The decode of `n` entries succeeds when they are written, whatever they hold. -/
theorem decodeBits_ok (p : Params) (ir : IrState) (n i : Nat) (x : Byte)
    (h : ∀ j, i ≤ j → j < i + n → ∃ v, ir.buf[j]? = some (some v)) :
    ∃ y, decodeBits p ir n i x = .ok y := by
  induction n generalizing i x with
  | zero => exact ⟨x, rfl⟩
  | succ n ih =>
    obtain ⟨v, hv⟩ := h i (le_refl i) (by omega)
    rw [decodeBits, IrState.read_eq_ok.mpr hv]
    exact ih (i + 1) _ fun j h1 h2 => h j (by omega) (by omega)

/-- The decode of entries that hold known values. -/
theorem decodeBits_cons {p : Params} {ir : IrState} {n i : Nat} {x : Byte} {v : Interval}
    (h : ir.buf[i]? = some (some v)) :
    decodeBits p ir (n + 1) i x =
      decodeBits p ir n (i + 1) ((x <<< 1) ||| (BitVec.ofBool (inOne p v)).setWidth 8) := by
  rw [decodeBits, IrState.read_eq_ok.mpr h]

/-- The decode reads nothing but its own entries. -/
theorem decodeBits_congr {p : Params} {ir ir' : IrState} {n i : Nat} {x : Byte}
    (h : ∀ j, i ≤ j → j < i + n → ir.buf[j]? = ir'.buf[j]?) :
    decodeBits p ir n i x = decodeBits p ir' n i x := by
  induction n generalizing i x with
  | zero => rfl
  | succ n ih =>
    have hr : ir.read i = ir'.read i := by
      unfold IrState.read
      rw [h i (le_refl i) (by omega)]
    simp only [decodeBits, hr]
    split
    · rfl
    · exact ih fun j h1 h2 => h j (by omega) (by omega)

/-- What the response of a decoded frame is (R104): its four bytes and the check of the last two. -/
theorem decodeFrame_cases {p : Params} {ir : IrState} {r : Response} (h : decodeFrame p ir = .ok r) :
    ∃ a na c nc, decodeByte p ir 0 = .ok a ∧ decodeByte p ir 1 = .ok na ∧ decodeByte p ir 2 = .ok c ∧
      decodeByte p ir 3 = .ok nc ∧ r = ⟨true, commandOk c nc, a ++ na ++ c ++ nc⟩ := by
  cases ha : decodeByte p ir 0 <;> cases hna : decodeByte p ir 1 <;> cases hc : decodeByte p ir 2 <;>
    cases hnc : decodeByte p ir 3 <;>
    simp [decodeFrame, ha, hna, hc, hnc, bind, Except.bind, pure, Except.pure] at h
  exact ⟨_, _, _, _, rfl, rfl, rfl, rfl, h.symm⟩

/-! ### Completion of a display frame (R138) -/

/-- Completion changes only the latches and DF_READY, and only for a frame of at least 6 declared bytes. -/
theorem complete_cases {df df' : DfState} (h : df.complete = .ok df') :
    df' = df ∨
      (payloadMinLen ≤ df.len ∧ ∃ cmd aHi aLo vHi vLo, df.read 3 = .ok cmd ∧ recognised cmd = true ∧
        df.read 4 = .ok aHi ∧ df.read 5 = .ok aLo ∧ df.read 7 = .ok vHi ∧ df.read 8 = .ok vLo ∧
        df' = { df with addr := aHi ++ aLo, value := vHi ++ vLo, ready := true }) := by
  unfold DfState.complete at h
  cases h3 : df.read 3 with
  | error f => simp [h3, bind, Except.bind] at h
  | ok cmd =>
    simp only [h3, bind, Except.bind] at h
    by_cases hr : recognised cmd = true
    · rw [if_pos hr] at h
      cases h4 : df.read 4 with
      | error f => simp [h4] at h
      | ok aHi =>
        cases h5 : df.read 5 with
        | error f => simp [h4, h5] at h
        | ok aLo =>
          simp only [h4, h5] at h
          by_cases hl : payloadMinLen ≤ df.len
          · rw [if_pos hl] at h
            cases h7 : df.read 7 with
            | error f => simp [h7] at h
            | ok vHi =>
              cases h8 : df.read 8 with
              | error f => simp [h7, h8] at h
              | ok vLo =>
                simp only [h7, h8, pure, Except.pure, Except.ok.injEq] at h
                exact .inr ⟨hl, cmd, aHi, aLo, vHi, vLo, rfl, hr, rfl, rfl, rfl, rfl, h.symm⟩
          · rw [if_neg hl] at h
            simp only [pure, Except.pure, Except.ok.injEq] at h
            exact .inl h.symm
    · rw [if_neg hr] at h
      simp only [pure, Except.pure, Except.ok.injEq] at h
      exact .inl h.symm

/-- Completion of a frame whose command is not recognised latches nothing. -/
theorem complete_unrecognised {df : DfState} {cmd : Byte} (h3 : df.read 3 = .ok cmd)
    (hr : recognised cmd = false) : df.complete = .ok df := by
  simp [DfState.complete, h3, hr, bind, Except.bind, pure, Except.pure]

/-- Completion of a recognised frame of fewer than 6 declared bytes latches nothing. -/
theorem complete_short {df : DfState} {cmd aHi aLo : Byte} (h3 : df.read 3 = .ok cmd) (h4 : df.read 4 = .ok aHi)
    (h5 : df.read 5 = .ok aLo) (hl : ¬payloadMinLen ≤ df.len) : df.complete = .ok df := by
  by_cases hr : recognised cmd = true
  · simp [DfState.complete, h3, h4, h5, hr, hl, bind, Except.bind, pure, Except.pure]
  · exact complete_unrecognised h3 (by simpa using hr)

/-- Completion of a recognised frame of at least 6 declared bytes latches the pair. -/
theorem complete_payload {df : DfState} {cmd aHi aLo vHi vLo : Byte} (h3 : df.read 3 = .ok cmd)
    (hr : recognised cmd = true) (h4 : df.read 4 = .ok aHi) (h5 : df.read 5 = .ok aLo) (h7 : df.read 7 = .ok vHi)
    (h8 : df.read 8 = .ok vLo) (hl : payloadMinLen ≤ df.len) :
    df.complete = .ok { df with addr := aHi ++ aLo, value := vHi ++ vLo, ready := true } := by
  simp [DfState.complete, h3, h4, h5, h7, h8, hr, hl, bind, Except.bind, pure, Except.pure]

/-- Every frame whose entries are written completes: of L declared bytes, entries 3 to L + 2 are there. -/
theorem complete_ok {df : DfState} (hl : 3 ≤ df.len.toNat)
    (hw : ∀ i, i < 3 + df.len.toNat → ∃ b, df.buf[i]? = some (some b)) : ∃ df', df.complete = .ok df' := by
  have rd : ∀ i, i < 3 + df.len.toNat → ∃ b, df.read i = .ok b := fun i hi =>
    (hw i hi).imp fun _ hb => DfState.read_eq_ok.mpr hb
  obtain ⟨cmd, h3⟩ := rd 3 (by omega)
  obtain ⟨aHi, h4⟩ := rd 4 (by omega)
  obtain ⟨aLo, h5⟩ := rd 5 (by omega)
  by_cases h6 : payloadMinLen ≤ df.len
  · have h6' : 6 ≤ df.len.toNat := by simpa [payloadMinLen, BitVec.le_def] using h6
    obtain ⟨vHi, h7⟩ := rd 7 (by omega)
    obtain ⟨vLo, h8⟩ := rd 8 (by omega)
    by_cases hr : recognised cmd = true
    · exact ⟨_, complete_payload h3 hr h4 h5 h7 h8 h6⟩
    · exact ⟨_, complete_unrecognised h3 (by simpa using hr)⟩
  · exact ⟨_, complete_short h3 h4 h5 h6⟩

/-! ### The framer on one byte (R132 to R137) -/

/-- In RECEIVING a byte is dropped at capacity, appended, or completes the frame. -/
theorem rxReceiving_cases {p : Params} {b : Byte} {df df' : DfState} (h : rxReceiving p b df = .ok df') :
    (dfCap ≤ df.idx.toNat ∧ df' = (df.errInc p).toIdle) ∨
    (df.idx.toNat < dfCap ∧ (df.append b).idx.toNat < 3 + df.len.toNat ∧ df' = df.append b) ∨
    (df.idx.toNat < dfCap ∧ 3 + df.len.toNat ≤ (df.append b).idx.toNat ∧
      ∃ done, (df.append b).complete = .ok done ∧ df' = done.toIdle) := by
  unfold rxReceiving at h
  split at h
  · rename_i hc
    exact .inl ⟨hc, by simpa using h.symm⟩
  · rename_i hc
    split at h
    · rename_i hl
      cases hd : (df.append b).complete with
      | error f => simp [hd, bind, Except.bind] at h
      | ok done =>
        simp only [hd, bind, Except.bind, pure, Except.pure, Except.ok.injEq] at h
        exact .inr (.inr ⟨by omega, hl, done, rfl, h.symm⟩)
    · rename_i hl
      exact .inr (.inl ⟨by omega, by omega, by simpa using h.symm⟩)

theorem dfReceive_idle {p : Params} {b : Byte} {df : DfState} (h : df.phase = .idle) :
    dfReceive p b df = .ok (rxIdle b df.clearStall) := by
  simp [dfReceive, h]

theorem dfReceive_gotHdrHi {p : Params} {b : Byte} {df : DfState} (h : df.phase = .gotHdrHi) :
    dfReceive p b df = .ok (rxGotHdrHi b df.clearStall) := by
  simp [dfReceive, h]

theorem dfReceive_gotHdrLo {p : Params} {b : Byte} {df : DfState} (h : df.phase = .gotHdrLo) :
    dfReceive p b df = .ok (rxGotHdrLo p b df.clearStall) := by
  simp [dfReceive, h]

theorem dfReceive_receiving {p : Params} {b : Byte} {df : DfState} (h : df.phase = .receiving) :
    dfReceive p b df = rxReceiving p b df.clearStall := by
  simp [dfReceive, h]

/-! ### Sequences of operations -/

@[simp] theorem execAll_nil (s : State) : execAll [] s = .next s := rfl

theorem execAll_cons_next {i : Instr} {is : List Instr} {s t : State} (h : exec i s = .next t) :
    execAll (i :: is) s = execAll is t := by
  simp [execAll, h]

/-- A sequence that completes is a first operation that completes and the rest from there. -/
theorem execAll_cons_inv {i : Instr} {is : List Instr} {s u : State} (h : execAll (i :: is) s = .next u) :
    ∃ t, exec i s = .next t ∧ execAll is t = .next u := by
  unfold execAll at h
  split at h
  · exact ⟨_, ‹_›, h⟩
  · cases h
  · cases h

theorem execAll_append {is js : List Instr} {s t : State} (h : execAll is s = .next t) :
    execAll (is ++ js) s = execAll js t := by
  induction is generalizing s with
  | nil => simpa using congrArg (fun o => o) (by injection h with h; rw [h] : execAll js s = execAll js t)
  | cons i is ih =>
    obtain ⟨u, hu, hr⟩ := execAll_cons_inv h
    rw [List.cons_append, execAll_cons_next hu, ih hr]

end Sys2Proof.Machine
end

