-- ==== Sys2Proof/Laws/PerInstr.lean ====
section
/-! SUPPORT. A statement about every operation as syntax, one lemma per constructor: its word matches its row of the
opcode map (spec/30_encoding.md R73). -/

namespace Sys2Proof.Laws.EncodeMatchesRow

/-- The word of the operation, masked by its row's mask, is its row's match. -/
def Statement (i : Instr) : Prop := encode i &&& (opcodeRow i).2 = (opcodeRow i).1

theorem irEdge (iv : Interval) : Statement (.irEdge iv) := by
  unfold Statement encode opcodeRow
  ext k hk
  interval_cases k <;> simp

theorem irDecode : Statement .irDecode := by rfl

theorem dfRxbyte (b : Byte) : Statement (.dfRxbyte b) := by
  unfold Statement encode opcodeRow
  ext k hk
  interval_cases k <;> simp

theorem dfIdle : Statement .dfIdle := by rfl

theorem dfTake : Statement .dfTake := by rfl

theorem regRead (rn : RegNum) : Statement (.regRead rn) := by
  unfold Statement encode opcodeRow
  ext k hk
  interval_cases k <;> simp

end Sys2Proof.Laws.EncodeMatchesRow
end

