-- ==== Sys2Proof/Laws/Step.lean ====
section
/-! SUPPORT. Inversion of each meaning and of the step: "if it answers next t, then one of these cases holds". -/

namespace Sys2Proof.Machine

theorem execIrEdge_cases {iv : Interval} {s t : State} (h : execIrEdge iv s = .next t) :
    (s.ir.ready = true ∧ t = s.respond Response.none) ∨
    (s.ir.ready = false ∧ irAppendOutside theParams iv s.ir = false ∧
      t = (s.setIr (irCapture theParams iv s.ir)).respond Response.none) := by
  unfold execIrEdge irEdge at h
  split at h
  · exact .inl ⟨‹_›, by injection h with h; exact h.symm⟩
  · split at h
    · cases h
    · exact .inr ⟨by simpa using ‹¬s.ir.ready = true›, by simpa using ‹¬irAppendOutside _ _ _ = true›,
        by injection h with h; exact h.symm⟩

theorem execIrDecode_cases {s t : State} (h : execIrDecode s = .next t) :
    (s.ir.ready = false ∧ t = s.respond Response.none) ∨
    (s.ir.ready = true ∧ ∃ r, decodeFrame theParams s.ir = .ok r ∧ t = (s.setIr s.ir.release).respond r) := by
  unfold execIrDecode irDecode at h
  split at h
  · split at h
    · exact .inr ⟨‹_›, _, ‹_›, by injection h with h; exact h.symm⟩
    · cases h
  · exact .inl ⟨by simpa using ‹¬s.ir.ready = true›, by injection h with h; exact h.symm⟩

theorem execDfRxbyte_cases {b : Byte} {s t : State} (h : execDfRxbyte b s = .next t) :
    ∃ df, dfReceive theParams b s.df = .ok df ∧ t = (s.setDf df).respond Response.none := by
  unfold execDfRxbyte dfRxbyte at h
  split at h
  · exact ⟨_, ‹_›, by injection h with h; exact h.symm⟩
  · cases h

theorem execDfIdle_eq (s : State) :
    execDfIdle s = .next ((s.setDf (dfPollEmpty theParams s.df)).respond Response.none) := rfl

theorem execDfTake_cases {s t : State} (h : execDfTake s = .next t) :
    (s.df.ready = true ∧ t = (s.setDf s.df.takePair).respond ⟨true, false, s.df.addr ++ s.df.value⟩) ∨
    (s.df.ready = false ∧ t = s.respond Response.none) := by
  unfold execDfTake at h
  split at h
  · exact .inl ⟨‹_›, by injection h with h; exact h.symm⟩
  · exact .inr ⟨by simpa using ‹¬s.df.ready = true›, by injection h with h; exact h.symm⟩

theorem execRegRead_cases {rn : RegNum} {s t : State} (h : execRegRead rn s = .next t) :
    ∃ r, readWindow s rn = some r ∧ t = s.respond ⟨true, false, r.setWidth 32⟩ := by
  unfold execRegRead at h
  split at h
  · exact ⟨_, ‹_›, by injection h with h; exact h.symm⟩
  · cases h

/-- A step that answers next took RESET, or applied the operation the accepted word decodes to. -/
theorem step_cases {s t : State} (h : step s = .next t) :
    (s.resetIn = true ∧ t = s.takeReset) ∨
    (s.resetIn = false ∧ ∃ i, decode s.accept.1 = .ok i ∧ exec i s.accept.2 = .next t) := by
  unfold step at h
  split at h
  · exact .inl ⟨‹_›, by injection h with h; exact h.symm⟩
  · split at h
    · exact .inr ⟨by simpa using ‹¬s.resetIn = true›, _, ‹_›, h⟩
    · cases h

/-- Accepting a word changes nothing of the block. -/
@[simp] theorem State.accept_ir (s : State) : s.accept.2.ir = s.ir := by
  unfold State.accept
  repeat' split
  all_goals rfl

@[simp] theorem State.accept_df (s : State) : s.accept.2.df = s.df := by
  unfold State.accept
  repeat' split
  all_goals rfl

@[simp] theorem State.accept_resp (s : State) : s.accept.2.resp = s.resp := by
  unfold State.accept
  repeat' split
  all_goals rfl

@[simp] theorem State.accept_resetIn (s : State) : s.accept.2.resetIn = s.resetIn := by
  unfold State.accept
  repeat' split
  all_goals rfl

/-- `withFetchWord` makes its word the one the next step accepts. -/
theorem accept_withFetchWord (s : State) (nbits w : Nat) :
    (s.withFetchWord nbits w).accept = (tableWord nbits w, { s with resetIn := false, edgeOps := [] }) := rfl

end Sys2Proof.Machine
end

