-- ==== Sys2Proof/Tests/Slice0.lean ====
section
/-! SUPPORT. The model's own tests, expected results from spec/95_test_vectors.md, and one witness per hypothesis of
the statements in Certificates/Slice0/Obligations.lean. -/

namespace Sys2Proof.Tests

open Sys2Proof.Machine

/-! ### Helpers -/

/-- P0, the illustrative parameters of 95_test_vectors.md; they are not the hardware's. -/
def p0 : Params := ⟨⟨24000, 30000⟩, ⟨3600, 5400⟩, ⟨1600, 2900⟩, 3, .saturate⟩

/-- The nominal intervals of 95_test_vectors.md. -/
def n0 : Nominals := ⟨27000, 4500, 2250⟩

/-- The next state of an outcome, if it is one. -/
def nextOf : Host.Outcome State Fault Refusal → Option State
  | .next s => some s
  | .fault _ => none
  | .refused _ => none

/-- A state with this DF sub-block, the rest as after reset. -/
def withDf (df : DfState) : State := { State.reset with df := df }

/-- A state with this IR sub-block, the rest as after reset. -/
def withIr (ir : IrState) : State := { State.reset with ir := ir }

/-- An IR frame of four bytes, captured with the nominal intervals. -/
def readyFrame (a na c nc : Byte) : State :=
  withIr ((byteIntervals n0 a ++ byteIntervals n0 na ++ byteIntervals n0 c ++ byteIntervals n0 nc).foldl
    IrState.append (IrState.reset.startCapture 27000))

/-- The framer after `5A A5 06 83 11 00 01 00` (S1 less its last byte). -/
def lastByteDue : State :=
  withDf { DfState.reset with
    phase := .receiving
    buf := #v[some 0x5A, some 0xA5, some 6, some 0x83, some 0x11, some 0, some 1, some 0, none, none, none, none]
    idx := 8
    len := 6 }

/-- The framer after `5A A5` (GOT_HDR_LO). -/
def lengthDue : State :=
  withDf { DfState.reset with
    phase := .gotHdrLo
    buf := #v[some 0x5A, some 0xA5, none, none, none, none, none, none, none, none, none, none]
    idx := 2 }

/-- The framer after `5A` (GOT_HDR_HI). -/
def headerDue : State :=
  withDf { DfState.reset with
    phase := .gotHdrHi
    buf := #v[some 0x5A, none, none, none, none, none, none, none, none, none, none, none]
    idx := 1 }

/-! ### Parameters (R6, R181) and well-formedness (R76) -/

theorem test_p0_is_legal : p0.legal = true := by decide

theorem test_overlapping_windows_refused :
    instantiate { p0 with one := ⟨2900, 5400⟩ } = .refused (.badConfig { p0 with one := ⟨2900, 5400⟩ }) := rfl

theorem test_inverted_window_refused : ({ p0 with zero := ⟨2900, 1600⟩ } : Params).legal = false := by decide

theorem test_stall_limit_bound : ({ p0 with stallLimit := 65535 } : Params).legal = false := by decide

/-- The smoke test of the one check of WellFormed. -/
theorem test_reserved_register_is_ill_formed : (Instr.regRead 0x09).wellFormed = false := by decide

theorem test_last_register_is_well_formed : (Instr.regRead 0x08).wellFormed = true := by decide

/-! ### Decoding: words written out bit by bit from R71 and R73 -/

theorem test_decode_irEdge : decode 0b0001_000000000000_0110100101111000#32 = .ok (.irEdge 27000) := by decide

theorem test_decode_irDecode : decode 0b0010_0000000000000000000000000000#32 = .ok .irDecode := by decide

theorem test_decode_dfRxbyte : decode 0b0011_00000000000000000000_10100101#32 = .ok (.dfRxbyte 0xA5) := by decide

theorem test_decode_dfIdle : decode 0b0100_0000000000000000000000000000#32 = .ok .dfIdle := by decide

theorem test_decode_dfTake : decode 0b0101_0000000000000000000000000000#32 = .ok .dfTake := by decide

theorem test_decode_regRead : decode 0b0110_00000000000000000000000_00101#32 = .ok (.regRead 5) := by decide

/-- V-EN-1, V-EN-2. -/
theorem test_decode_reserved_op :
    decode 0x00000000 = .error (.reservedOp 0x00000000) ∧ decode 0x70000000 = .error (.reservedOp 0x70000000) ∧
    decode 0xF0000000 = .error (.reservedOp 0xF0000000) := by decide

/-- V-EN-3 to V-EN-6. -/
theorem test_decode_reserved_bits :
    decode 0x10010000 = .error (.reservedBits 0x10010000) ∧ decode 0x30000100 = .error (.reservedBits 0x30000100) ∧
    decode 0x20000001 = .error (.reservedBits 0x20000001) ∧ decode 0x40000001 = .error (.reservedBits 0x40000001) ∧
    decode 0x50000001 = .error (.reservedBits 0x50000001) ∧
    decode 0x60000020 = .error (.reservedBits 0x60000020) := by decide

theorem test_decodeTableWord : decodeTableWord 32 0x60000006 = some (.regRead 6) := by decide

theorem test_decodeTableWord_refused : decodeTableWord 32 0x60000020 = none := by decide

/-! ### Classification (95_test_vectors.md 2.1, P0) -/

theorem test_classify_bounds :
    [1599, 1600, 2900, 2901, 3599, 3600, 5400, 5401, 23999, 24000, 30000, 30001].map (classify p0) =
      [.none, .zero, .zero, .none, .none, .one, .one, .none, .none, .leader, .leader, .none] := by decide

theorem test_presentedInterval : presentedInterval 70000 = 65535 := by decide

/-! ### The operations -/

/-- V-IR-2. -/
theorem test_irEdge_leader_starts_capture :
    (nextOf (irEdge p0 27000 State.reset)).map (fun t => (t.ir.busy, t.ir.ready, t.ir.idx, t.ir.buf[0])) =
      some (true, false, 1, some 27000) := by decide

/-- V-IR-6: edges are ignored while a frame is ready. -/
theorem test_irEdge_ignored_while_ready :
    (nextOf (irEdge p0 27000 (readyFrame 0x00 0xFF 0x16 0xE9))).map (fun t => (t.ir.busy, t.ir.ready, t.ir.idx)) =
      some (true, true, 33) := by decide

/-- S5. -/
theorem test_irDecode_ready_frame :
    (nextOf (irDecode p0 (readyFrame 0x00 0xFF 0x16 0xE9))).map (fun t => (t.resp, t.ir.busy, t.ir.ready, t.ir.idx)) =
      some (⟨true, true, 0x00FF16E9⟩, false, false, 0) := by decide +kernel

/-- V-IR-8: the interval of data bit 25 replaced by one of class NONE decodes as 0, and the check fails. -/
theorem test_irDecode_none_is_zero :
    (nextOf (irDecode p0 (withIr ((readyFrame 0x00 0xFF 0x16 0xE9).ir.write 25 3000)))).map (fun t => t.resp) =
      some ⟨true, false, 0x00FF1669⟩ := by decide +kernel

/-- S1: the ninth byte completes the frame. -/
theorem test_dfRxbyte_completes_frame :
    (nextOf (dfRxbyte p0 0x05 lastByteDue)).map
        (fun t => (t.df.phase, t.df.idx, t.df.len, t.df.ready, t.df.addr, t.df.value)) =
      some (.idle, 0, 6, true, 0x1100, 0x0005) := by decide

/-- V-DF-2: a declared length of 10 is rejected and counted. -/
theorem test_dfRxbyte_rejects_length_ten :
    (nextOf (dfRxbyte p0 0x0A lengthDue)).map (fun t => (t.df.phase, t.df.idx, t.df.len, t.df.err)) =
      some (.idle, 0, 0, 1) := by decide

/-- S4: the fourth empty poll times out, and the error count saturates (V-DF-22). -/
theorem test_dfIdle_times_out :
    (nextOf (dfIdle p0 (withDf { lastByteDue.df with stall := 3, err := 255 }))).map
        (fun t => (t.df.phase, t.df.idx, t.df.stall, t.df.err)) = some (.idle, 0, 0, 255) := by decide

/-- S4: the third empty poll only counts. -/
theorem test_dfIdle_counts :
    (nextOf (dfIdle p0 (withDf { lastByteDue.df with stall := 2 }))).map (fun t => (t.df.phase, t.df.idx, t.df.stall)) =
      some (.receiving, 8, 3) := by decide

/-- V-DF-25: the pair is taken in mid-frame, and the latches keep their values. -/
theorem test_dfTake_takes_pair :
    (nextOf (execDfTake (withDf { lastByteDue.df with ready := true, addr := 0x1100, value := 0x0005 }))).map
        (fun t => (t.resp, t.df.phase, t.df.ready, t.df.addr)) =
      some (⟨true, false, 0x11000005⟩, .receiving, false, 0x1100) := by decide

/-- V-DF-26. -/
theorem test_dfTake_without_pair : nextOf (execDfTake State.reset) = some State.reset := by decide

/-- V-RR-1: IR_STATUS reads 0x0004 after reset. -/
theorem test_regRead_status_after_reset :
    nextOf (execRegRead 0 State.reset) = some { State.reset with resp := ⟨true, false, 4⟩ } := by decide

/-- V-RR-3. -/
theorem test_regRead_reserved_refused : execRegRead 9 State.reset = .refused (.reservedReg 9) := rfl

/-! ### Step, fetch and assembler -/

/-- R74: an undriven port is refused (assumption log 3). -/
theorem test_undriven_port_refused : step State.reset = .refused (.reservedOp 0) := rfl

theorem test_withFetchWord_runs_its_word :
    step (State.reset.withFetchWord 32 0x60000000) = exec (.regRead 0) State.reset := rfl

/-- R78's example line. -/
theorem test_assemble_example : assembleLine p0 n0 "IR_EDGE 27000 ; leader".toList = .ok [.irEdge 27000] := by decide

theorem test_assemble_names_and_hex :
    assemble p0 n0 ["REG_READ DF_VALUEREG".toList, "; a comment".toList, "DF_POLL 0x5A, 165".toList] =
      .ok [.regRead 8, .dfRxbyte 0x5A, .dfRxbyte 0xA5] := by decide

theorem test_assemble_out_of_range : assembleLine p0 n0 "DF_RXBYTE 256".toList = .error .outOfRange := by decide

/-! ### Witnesses: states that meet the hypotheses of the statements -/

/-- A leader of the block's own parameters. -/
def leaderIv : Interval := BitVec.ofNat 16 theParams.leader.min

/-- A logic-1 interval of the block's own parameters. -/
def oneIv : Interval := BitVec.ofNat 16 theParams.one.min

/-- IR_BUF with a leader in entry 0 and logic-1 intervals in entries 1 to 32. -/
def fullBuf : Vector (Option Interval) 33 := (Vector.replicate 33 (some oneIv)).setIfInBounds 0 (some leaderIv)

/-- A capture of which `n` entries are there. -/
def capturing (n : BitVec 6) : State := withIr { buf := fullBuf, idx := n, busy := true, ready := false }

/-- A ready frame. -/
def readyState : State := withIr { buf := fullBuf, idx := 33, busy := true, ready := true }

theorem fullBuf_leader : fullBuf[0]? = some (some leaderIv) := by simp [fullBuf]

theorem fullBuf_data (i : Nat) (h1 : 1 ≤ i) (h2 : i ≤ 32) : fullBuf[i]? = some (some oneIv) := by
  rw [fullBuf, buf_set_other _ _ (by omega)]
  rw [Vector.getElem?_replicate, if_pos (by omega)]

theorem oneIv_not_leader : classify theParams oneIv ≠ .leader := by
  rw [oneIv, classify_one_min]
  decide

theorem reset_df_inv : DfInv theParams DfState.reset := by
  constructor <;> simp [DfState.reset]

/-- A frame in progress or ready, over the full buffer, meets R27. -/
theorem full_ir_inv (n : BitVec 6) (ready : Bool) (hr : ready = true → n = 33#6)
    (hc : ready = false → 1#6 ≤ n ∧ n ≤ 32#6) : IrInv theParams ⟨fullBuf, n, true, ready⟩ where
  ready_full h := ⟨rfl, hr h⟩
  capturing_range _ h := hc h
  idle_clear h := by cases h
  leader_entry _ := ⟨leaderIv, fullBuf_leader, classify_leader_min⟩
  data_entries _ i h1 h2 := by
    have : n.toNat ≤ 33 := by
      cases hb : ready with
      | true => simp [hr hb]
      | false =>
        have := (hc hb).2
        rw [BitVec.le_def] at this
        simp at this
        omega
    exact ⟨oneIv, fullBuf_data i h1 (by simp at h2; omega), oneIv_not_leader⟩

theorem witness_inv_reset : Inv State.reset :=
  ⟨by constructor <;> simp [State.reset, IrState.reset], reset_df_inv, fun _ => rfl⟩

/-- EdgeAgainstDecodeBothOrders, EdgesIgnoredWhileReady, IrStatusReadsThreeValues; with `leaderIv` and `oneIv` for the two clauses. -/
theorem witness_inv_ready : Inv readyState ∧ readyState.ir.ready = true :=
  ⟨⟨full_ir_inv 33 true (fun _ => rfl) (fun h => by cases h), reset_df_inv, fun _ => rfl⟩, rfl⟩

theorem witness_edge_leader : classify theParams leaderIv = .leader ∧ classify theParams oneIv ≠ .leader :=
  ⟨classify_leader_min, oneIv_not_leader⟩

/-- IrEdgeResult at its boundary; ReadyOutputsRiseAndFall. -/
theorem witness_capture_last_entry :
    Inv (capturing 32) ∧ (capturing 32).ir.busy = true ∧ (capturing 32).ir.ready = false ∧
      (capturing 32).ir.idx ≤ 32#6 :=
  ⟨⟨full_ir_inv 32 false (fun h => by cases h) (fun _ => by decide), reset_df_inv, fun _ => rfl⟩, rfl, rfl, by decide⟩

/-- IrDecodeResult, CommandCheckIgnoresAddress, FramesAreConsumedOnce. -/
theorem witness_ready_entries_written :
    readyState.ir.ready = true ∧ ∀ i, 1 ≤ i → i ≤ 32 → ∃ v, readyState.ir.buf[i]? = some (some v) :=
  ⟨rfl, fun i h1 h2 => ⟨oneIv, fullBuf_data i h1 h2⟩⟩

theorem witness_irDecode_ready_next : ∃ t, exec .irDecode readyState = .next t := by
  have h := fun i h1 h2 => witness_ready_entries_written.2 i h1 h2
  obtain ⟨a, ha⟩ := decodeBits_ok theParams readyState.ir 8 1 0#8 fun j h1 h2 => h j (by omega) (by omega)
  obtain ⟨na, hna⟩ := decodeBits_ok theParams readyState.ir 8 9 0#8 fun j h1 h2 => h j (by omega) (by omega)
  obtain ⟨c, hc⟩ := decodeBits_ok theParams readyState.ir 8 17 0#8 fun j h1 h2 => h j (by omega) (by omega)
  obtain ⟨nc, hnc⟩ := decodeBits_ok theParams readyState.ir 8 25 0#8 fun j h1 h2 => h j (by omega) (by omega)
  have hd : decodeFrame theParams readyState.ir = .ok ⟨true, commandOk c nc, a ++ na ++ c ++ nc⟩ := by
    simp [decodeFrame, decodeByte, ha, hna, hc, hnc, bind, Except.bind, pure, Except.pure]
  have hr : readyState.ir.ready = true := rfl
  exact ⟨_, by simp only [exec, execIrDecode, irDecode, hr, hd, if_true]; rfl⟩

/-- EncodeOfDecodeIsIdentity. -/
theorem witness_decodes : decode 0x60000008 = .ok (.regRead 8) := by decide

/-- ReservedOpcodesAreRefused at OP 0, 7 and 15. -/
theorem witness_reserved_op :
    State.reset.resetIn = false ∧ State.reset.accept.1.toNat / 2 ^ 28 = 0 ∧
    ({ State.reset with hostOps := [0x70000000] } : State).accept.1.toNat / 2 ^ 28 = 7 ∧
    ({ State.reset with edgeOps := [0xFFFFFFFF] } : State).accept.1.toNat / 2 ^ 28 = 15 := by decide

/-- ReservedBitsAreRefused, each clause at the lowest bit of its Z field. -/
theorem witness_reserved_bits :
    ({ State.reset with hostOps := [0x10010000] } : State).accept.1 = 0x10010000 ∧
    (0x10010000#32).toNat / 2 ^ 28 = 1 ∧ (0x10010000#32).toNat / 2 ^ 16 % 2 ^ 12 ≠ 0 ∧
    (0x20000001#32).toNat / 2 ^ 28 = 2 ∧ (0x20000001#32).toNat % 2 ^ 28 ≠ 0 ∧
    (0x30000100#32).toNat / 2 ^ 28 = 3 ∧ (0x30000100#32).toNat / 2 ^ 8 % 2 ^ 20 ≠ 0 ∧
    (0x40000001#32).toNat / 2 ^ 28 = 4 ∧ (0x40000001#32).toNat % 2 ^ 28 ≠ 0 ∧
    (0x50000001#32).toNat / 2 ^ 28 = 5 ∧ (0x50000001#32).toNat % 2 ^ 28 ≠ 0 ∧
    (0x60000020#32).toNat / 2 ^ 28 = 6 ∧ (0x60000020#32).toNat / 2 ^ 5 % 2 ^ 23 ≠ 0 := by decide

/-- StepRunsPresentedOperation, one state for each clause, and SimultaneousOperationsApplyEitherFirst: the presented
words decode. -/
theorem witness_presented :
    ({ State.reset with edgeOps := [0x10006978] } : State).resetIn = false ∧
    decode 0x10006978 = .ok (.irEdge 27000) ∧ decode 0x20000000 = .ok .irDecode ∧
    ({ State.reset with edgeOps := [0x10006978] } : State).hostOps = [] ∧
    ({ State.reset with hostOps := [0x20000000] } : State).edgeOps = [] := by decide

/-- ResetGivesStatedValues: RESET asserted in mid-frame. -/
theorem witness_reset_asserted : ({ lastByteDue with resetIn := true } : State).resetIn = true := rfl

/-- StepKeepsInvariants: a step from a state that meets the invariants. -/
theorem witness_step_next :
    Inv (State.reset.withFetchWord 32 0x40000000) ∧
      step (State.reset.withFetchWord 32 0x40000000) = .next State.reset :=
  ⟨⟨witness_inv_reset.ir, reset_df_inv, fun _ => rfl⟩, rfl⟩

/-- OperationStreamsComplete. -/
theorem witness_stream : ∀ i ∈ ([.irEdge 1, .irDecode, .dfRxbyte 0x5A, .dfIdle, .dfTake, .regRead 8] : List Instr),
    i.wellFormed = true := by decide

/-- CapturedFrameDecodesMsbFirst. -/
theorem witness_captured_frame :
    State.reset.ir.ready = false ∧ classify theParams leaderIv = .leader ∧ (List.replicate 32 oneIv).length = 32 ∧
      ∀ v ∈ List.replicate 32 oneIv, classify theParams v ≠ .leader :=
  ⟨rfl, classify_leader_min, List.length_replicate, fun v hv => by
    rw [List.eq_of_mem_replicate hv]
    exact oneIv_not_leader⟩

/-- IrFrameRoundTrip: nominal intervals at the lower bounds of the windows. -/
theorem witness_nominals :
    nominalsLegal theParams ⟨leaderIv, oneIv, BitVec.ofNat 16 theParams.zero.min⟩ = true := by
  have h := (Params.legal_iff theParams).mp theParams_legal
  simp [nominalsLegal, inLeader, inOne, inZero, leaderIv, oneIv, inWindow_min h.1, inWindow_min h.2.1,
    inWindow_min h.2.2.1]

/-- RxbyteInIdle, RxbyteInGotHdrHi, RxbyteInGotHdrLo, and the frames fed from IDLE. -/
theorem witness_phases :
    State.reset.df.phase = .idle ∧ headerDue.df.phase = .gotHdrHi ∧ lengthDue.df.phase = .gotHdrLo := by decide

/-- RxbyteInReceivingAppends: the seventh of nine bytes. -/
theorem witness_receiving_appends :
    (withDf { lastByteDue.df with idx := 7 }).df.phase = .receiving ∧
      (withDf { lastByteDue.df with idx := 7 }).df.idx.toNat + 1 <
        3 + (withDf { lastByteDue.df with idx := 7 }).df.len.toNat ∧
      (withDf { lastByteDue.df with idx := 7 }).df.idx.toNat < 12 := by decide

/-- CapacityCheckDropsByte: at capacity. -/
theorem witness_capacity :
    (withDf { lastByteDue.df with idx := 12 }).df.phase = .receiving ∧
      12 ≤ (withDf { lastByteDue.df with idx := 12 }).df.idx.toNat := by decide

theorem lastByteDue_df_inv : DfInv theParams lastByteDue.df := by
  constructor
  · decide
  · decide
  · decide
  · decide
  · exact Nat.zero_le _
  · intro i hi
    have h8 : i < 8 := hi
    interval_cases i <;> exact ⟨_, rfl⟩
  · decide

/-- CapacityCheckNeverFires, EmptyPollsReachIdle, PollWithBytesIsNoStall and
BytesReachIdle (RECEIVING). -/
theorem witness_inv_receiving :
    Inv lastByteDue ∧ lastByteDue.df.phase = .receiving ∧ lastByteDue.df.phase ≠ .idle ∧
      (List.replicate 9 0x5A#8).length = 9 :=
  ⟨⟨witness_inv_reset.ir, lastByteDue_df_inv, fun _ => rfl⟩, rfl, by decide, rfl⟩

/-- BytesReachIdle (GOT_HDR_LO). -/
theorem witness_inv_lengthDue : Inv lengthDue ∧ lengthDue.df.phase = .gotHdrLo ∧
    (List.replicate 10 0x05#8).length = 10 := by
  refine ⟨⟨witness_inv_reset.ir, ?_, fun _ => rfl⟩, rfl, rfl⟩
  constructor
  · decide
  · decide
  · decide
  · decide
  · exact Nat.zero_le _
  · intro i hi
    have h2 : i < 2 := hi
    interval_cases i <;> exact ⟨_, rfl⟩
  · decide

/-- BytesReachIdle (GOT_HDR_HI). -/
theorem witness_inv_headerDue : Inv headerDue ∧ headerDue.df.phase = .gotHdrHi ∧ 0x00#8 ≠ 0x5A#8 := by
  refine ⟨⟨witness_inv_reset.ir, ?_, fun _ => rfl⟩, rfl, by decide⟩
  constructor
  · decide
  · decide
  · decide
  · decide
  · exact Nat.zero_le _
  · intro i hi
    have h1 : i < 1 := hi
    interval_cases i
    exact ⟨_, rfl⟩
  · decide

/-- RxbyteCompletesFrame: the last byte of S1, with the entries of its buffer. -/
theorem witness_completes :
    DfInv theParams lastByteDue.df ∧ lastByteDue.df.phase = .receiving ∧
      lastByteDue.df.idx.toNat + 1 = 3 + lastByteDue.df.len.toNat ∧
      ∀ i v, (lastByteDue.df.buf.setIfInBounds lastByteDue.df.idx.toNat (some 0x05#8))[i]? = some (some v) →
        (fun i : Nat => [0x5A#8, 0xA5#8, 6#8, 0x83#8, 0x11#8, 0#8, 1#8, 0#8, 5#8].getD i 0) i = v := by
  refine ⟨lastByteDue_df_inv, rfl, by decide, ?_⟩
  intro i v h
  have hi : i < 12 := by
    by_contra hn
    rw [Vector.getElem?_eq_none (by omega)] at h
    cases h
  interval_cases i <;> revert v <;> decide

/-- FramingErrorsAreCounted: each of the three errors, and an operation that is none. -/
theorem witness_framing_errors :
    framingError (.dfRxbyte 2) lengthDue ∧ framingError (.dfRxbyte 10) lengthDue ∧
    framingError (.dfRxbyte 0) (withDf { lastByteDue.df with idx := 12 }) ∧
    framingError .dfIdle (withDf { lastByteDue.df with stall := BitVec.ofNat 16 theParams.stallLimit }) ∧
    ¬framingError (.dfRxbyte 9) lengthDue := by
  have hleg := ((Params.legal_iff theParams).mp theParams_legal).2.2.2.2.2.2
  refine ⟨.inl ⟨2, rfl, rfl, by decide⟩, .inl ⟨10, rfl, rfl, by decide⟩, .inr (.inl ⟨0, rfl, rfl, by decide⟩),
    .inr (.inr ⟨rfl, by decide, ?_⟩), ?_⟩
  · simp [withDf]
    omega
  · rintro (⟨b, h1, _, h3⟩ | ⟨b, _, h2, _⟩ | ⟨h1, _⟩)
    · injection h1 with h1
      subst h1
      exact h3 (by decide)
    · cases h2
    · cases h1

/-- SaturatingErrorCountNeverFalls, and each of its operations completes. -/
theorem witness_saturate :
    p0.errMode = .saturate ∧ (nextOf (dfRxbyte p0 2 lengthDue)).isSome = true ∧
      (nextOf (dfIdle p0 lengthDue)).isSome = true ∧ (nextOf (execDfTake lengthDue)).isSome = true := by decide

/-- StalledFrameCountsOneError, with n = STALL_LIMIT and n = STALL_LIMIT + 1. -/
theorem witness_stall :
    lastByteDue.df.phase ≠ .idle ∧ lastByteDue.df.stall = 0#16 ∧ theParams.stallLimit ≤ theParams.stallLimit ∧
      theParams.stallLimit < theParams.stallLimit + 1 :=
  ⟨by decide, rfl, Nat.le_refl _, Nat.lt_succ_self _⟩

/-- PayloadFrameIsParsed at L = 6 and L = 9; UselessFrameLatchesNothing by its length (L = 3) and by its command;
IllegalLengthIsRejected at 2 and 10. -/
theorem witness_frames :
    (6 ≤ (6#8).toNat ∧ ([] : List Byte).length + 6 = (6#8).toNat) ∧
    ((9#8).toNat ≤ 9 ∧ [0xAA#8, 0xBB#8, 0xCC#8].length + 6 = (9#8).toNat) ∧
    (3 ≤ (3#8).toNat ∧ (3#8).toNat < 6 ∧ [0x4F#8, 0x4B#8].length + 1 = (3#8).toNat) ∧
    ((0x84#8 ≠ 0x82#8 ∧ 0x84#8 ≠ 0x83#8) ∧ [0x11#8, 0#8, 1#8, 0#8, 5#8].length + 1 = (6#8).toNat) ∧
    ¬(3 ≤ (2#8).toNat ∧ (2#8).toNat ≤ 9) ∧ ¬(3 ≤ (10#8).toNat ∧ (10#8).toNat ≤ 9) := by decide

/-- PairSurvivesEightBytes: eight bytes outside a header, and IR_DECODE. -/
theorem witness_eight_bytes :
    State.reset.df.phase = .idle ∧ (.irDecode :: List.replicate 8 (.dfRxbyte 0)).countP isRxbyteOp ≤ 8 ∧
      .dfTake ∉ (.irDecode :: List.replicate 8 (.dfRxbyte 0) : List Instr) ∧
      execAll (.irDecode :: List.replicate 8 (.dfRxbyte 0)) State.reset = .next State.reset :=
  ⟨rfl, by decide, by decide, rfl⟩

/-- LatchesChangeOnlyAtCompletion, ReadyOutputsRiseAndFall (DF_READY rises): the last byte of S1. -/
theorem witness_latches_change :
    (nextOf (exec (.dfRxbyte 5) lastByteDue)).map (fun t => (decide (t.df.addr ≠ lastByteDue.df.addr), t.dfReadyIrq)) =
      some (true, true) := by decide

/-- RegReadResult, RegisterWindowIsReadOnly: the first reserved and the last defined number. -/
theorem witness_registers :
    9 ≤ (9#5).toNat ∧ (8#5).toNat < 9 ∧ (nextOf (exec (.regRead 8) State.reset)).isSome = true ∧
      (nextOf (exec (.regRead 0) State.reset)).isSome = true := by decide

/-- HostDoesNotSeeBuffers, IrAndDfOperationsCommute, OperationsWriteOwnSubBlock, ResponsesFollowTheirOperation,
FramesAreConsumedOnce: the operations complete. -/
theorem witness_operations_complete :
    (nextOf (exec .dfTake (withDf { lastByteDue.df with ready := true }))).isSome = true ∧
    (nextOf (exec .dfIdle lastByteDue)).isSome = true ∧ State.reset.ir.ready = false ∧
    (nextOf (exec .irDecode State.reset)).isSome = true ∧
    (nextOf (exec (.dfRxbyte 5) lastByteDue)).isSome = true := by decide

/-- ReadyOutputsRiseAndFall: IR_READY rises with the last entry and falls with IR_DECODE, DF_READY falls with
DF_TAKE. -/
theorem witness_ready_outputs :
    (capturing 32).irReadyIrq = false ∧
    (∃ t, exec (.irEdge oneIv) (capturing 32) = .next t ∧ t.irReadyIrq = true) ∧ readyState.irReadyIrq = true ∧
    (withDf { lastByteDue.df with ready := true }).dfReadyIrq = true ∧
    (nextOf (exec .dfTake (withDf { lastByteDue.df with ready := true }))).map State.dfReadyIrq = some false := by
  refine ⟨rfl, ?_, rfl, rfl, by decide⟩
  have h : irAppendOutside theParams oneIv (capturing 32).ir = false := rfl
  have hc : irCapture theParams oneIv (capturing 32).ir = (capturing 32).ir.append oneIv := by
    simp [irCapture, oneIv_not_leader, capturing, withIr]
  have hr : (capturing 32).ir.ready = false := rfl
  refine ⟨((capturing 32).setIr ((capturing 32).ir.append oneIv)).respond Response.none, ?_, rfl⟩
  simp only [exec, execIrEdge, irEdge, hr, h, hc, Bool.false_eq_true, if_false]

end Sys2Proof.Tests
end

