-- ==== Sys2Proof/Proofs/RegisterWindow.lean ====
section
/-! SUPPORT. The host register window (spec/10_state.md R39, R40): the nine registers as one list, the width of each,
and that a read writes nothing but the response. -/

namespace Sys2Proof.Machine

/-- The nine registers of the window in the order of their numbers (R39). -/
def windowValues (s : State) : List Half :=
  [irStatus s.ir, s.ir.idx.setWidth 16, dfStatus s.df, s.df.idx.setWidth 16, s.df.len.setWidth 16, s.df.stall,
    s.df.err.setWidth 16, s.df.addr, s.df.value]

/-- The bits R39 lists for each of these registers; the bits above them are reserved. -/
def windowWidths : List Nat := [3, 6, 3, 4, 8, 16, 8, 16, 16]

@[simp] theorem windowValues_length (s : State) : (windowValues s).length = 9 := rfl

/-- A register number is an index of the list, and a reserved number is past its end (R40). -/
theorem readWindow_eq_getElem? (s : State) (rn : RegNum) : readWindow s rn = (windowValues s)[rn.toNat]? := by
  unfold readWindow windowValues
  match rn.toNat with
  | 0 | 1 | 2 | 3 | 4 | 5 | 6 | 7 | 8 => rfl
  | _ + 9 => rfl

theorem readWindow_eq_none_iff (s : State) (rn : RegNum) : readWindow s rn = none ↔ 9 ≤ rn.toNat := by
  rw [readWindow_eq_getElem?, List.getElem?_eq_none_iff, windowValues_length]

/-- Zero-extending a word, or cutting it off, keeps it within every bound. -/
theorem toNat_setWidth_lt {w bound : Nat} {x : BitVec w} (n : Nat) (h : x.toNat < bound) :
    (x.setWidth n).toNat < bound := by
  rw [BitVec.toNat_setWidth]
  exact (Nat.mod_le _ _).trans_lt h

theorem irStatus_toNat_lt (ir : IrState) : (irStatus ir).toNat < 2 ^ 3 := toNat_setWidth_lt 16 (BitVec.isLt _)

theorem dfStatus_toNat_lt (df : DfState) : (dfStatus df).toNat < 2 ^ 3 := toNat_setWidth_lt 16 (BitVec.isLt _)

/-- The reserved bits of every register read 0 (R40). -/
theorem windowValues_within_widths (s : State) :
    List.Forall₂ (fun width r => r.toNat < 2 ^ width) windowWidths (windowValues s) := by
  simp only [windowWidths, windowValues, List.forall₂_cons, List.Forall₂.nil, and_true]
  exact ⟨irStatus_toNat_lt s.ir, toNat_setWidth_lt 16 s.ir.idx.isLt, dfStatus_toNat_lt s.df,
    toNat_setWidth_lt 16 s.df.idx.isLt, toNat_setWidth_lt 16 s.df.len.isLt, s.df.stall.isLt,
    toNat_setWidth_lt 16 s.df.err.isLt, s.df.addr.isLt, s.df.value.isLt⟩

theorem readWindow_within_width {s : State} {rn : RegNum} {r : Half} (h : readWindow s rn = some r) :
    ∃ width, windowWidths[rn.toNat]? = some width ∧ r.toNat < 2 ^ width := by
  rw [readWindow_eq_getElem?, List.getElem?_eq_some_iff] at h
  obtain ⟨inRange, rfl⟩ := h
  exact ⟨windowWidths[rn.toNat], List.getElem?_eq_getElem _,
    (windowValues_within_widths s).get inRange inRange⟩

/-- The arm of REG_READ in the dispatch. -/
theorem exec_regRead (rn : RegNum) (s : State) : exec (.regRead rn) s = execRegRead rn s := rfl

theorem execRegRead_reserved {rn : RegNum} (s : State) (h : 9 ≤ rn.toNat) :
    execRegRead rn s = .refused (.reservedReg rn) := by
  rw [execRegRead, (readWindow_eq_none_iff s rn).mpr h]

/-- Settles O46: a reserved number is past the end of the window, and a read that answers has written only the response,
whose data is a register within its width. -/
theorem registerWindowIsReadOnly : Obligations.RegisterWindowIsReadOnly := by
  refine ⟨fun s rn reserved => execRegRead_reserved s reserved, fun s t rn read => ?_⟩
  obtain ⟨r, hr, rfl⟩ := execRegRead_cases ((exec_regRead rn s).symm.trans read)
  obtain ⟨width, hwidth, fits⟩ := readWindow_within_width hr
  exact ⟨rfl, width, hwidth, toNat_setWidth_lt 32 fits⟩

end Sys2Proof.Machine
end

