-- ==== Sys2Proof/Proofs/Encoding.lean ====
section
/-! SUPPORT. What the decoder answers for each opcode (spec/30_encoding.md R71 to R77), why a word whose Z field is not
0 is in no row of the opcode map (R75), and that a word that is no operation is refused (R74, R75). -/

namespace Sys2Proof

/-! ### The fields of a word as numbers (R70, R71) -/

theorem opField_toNat (w : Word) : (opField w).toNat = w.toNat / 2 ^ 28 := by
  have := w.isLt
  simp only [opField, BitVec.extractLsb'_toNat, Nat.shiftRight_eq_div_pow]
  omega

theorem opField_eq {w : Word} {c : BitVec 4} (op : w.toNat / 2 ^ 28 = c.toNat) : opField w = c :=
  BitVec.eq_of_toNat_eq ((opField_toNat w).trans op)

/-- A field whose number is not 0 is not the zero field. -/
theorem extractLsb'_ne_zero {w : Word} {start len : Nat} (z : w.toNat / 2 ^ start % 2 ^ len ≠ 0) :
    (w.extractLsb' start len == 0) = false := by
  refine beq_false_of_ne fun zero => z ?_
  rw [← Nat.shiftRight_eq_div_pow, ← BitVec.extractLsb'_toNat, zero]
  exact BitVec.toNat_zero

theorem zFieldN_ne_zero {w : Word} (z : w.toNat % 2 ^ 28 ≠ 0) : (zFieldN w == 0) = false :=
  extractLsb'_ne_zero (by simpa using z)

/-! ### The decoder, one equation per opcode (R77) -/

section
variable {w : Word}

theorem decode_op_irEdge (op : opField w = 0x1#4) :
    decode w = requireZero w (zFieldI16 w == 0) (.irEdge (ivField w)) := by simp [decode, op]

theorem decode_op_irDecode (op : opField w = 0x2#4) : decode w = requireZero w (zFieldN w == 0) .irDecode := by
  simp [decode, op]

theorem decode_op_dfRxbyte (op : opField w = 0x3#4) :
    decode w = requireZero w (zFieldB8 w == 0) (.dfRxbyte (byteField w)) := by simp [decode, op]

theorem decode_op_dfIdle (op : opField w = 0x4#4) : decode w = requireZero w (zFieldN w == 0) .dfIdle := by
  simp [decode, op]

theorem decode_op_dfTake (op : opField w = 0x5#4) : decode w = requireZero w (zFieldN w == 0) .dfTake := by
  simp [decode, op]

theorem decode_op_regRead (op : opField w = 0x6#4) :
    decode w = requireZero w (zFieldR5 w == 0) (.regRead (rnField w)) := by simp [decode, op]

theorem decode_reservedOp (reserved : (opField w).toNat = 0 ∨ 7 ≤ (opField w).toNat) :
    decode w = .error (.reservedOp w) := by
  have undefined (c : BitVec 4) (defined : 1 ≤ c.toNat ∧ c.toNat ≤ 6) : opField w ≠ c := by
    rintro rfl
    omega
  simp [decode, undefined]

theorem decode_reservedBits {i : Instr} {zIsZero : Bool} (row : decode w = requireZero w zIsZero i)
    (z : zIsZero = false) : decode w = .error (.reservedBits w) := by
  rw [row, z]
  rfl

theorem decode_ok {i : Instr} {zIsZero : Bool} (row : decode w = requireZero w zIsZero i) (z : zIsZero = true) :
    decode w = .ok i := by
  rw [row, z]
  rfl

end

/-! ### The opcode map (R73) -/

/-- A mask that covers a field leaves the match word no choice for it. -/
theorem extractLsb'_eq_of_masked {w mask matchWord : Word} {start len : Nat} (row : w &&& mask = matchWord)
    (covered : mask.extractLsb' start len = BitVec.allOnes len) :
    w.extractLsb' start len = matchWord.extractLsb' start len := by
  rw [← row, BitVec.extractLsb'_and, covered, BitVec.and_allOnes]

/-- Each row's mask covers the opcode and the Z field (R75), so a word of the row decodes. -/
theorem decode_of_matches_row {w : Word} {i : Instr} (row : w &&& (opcodeRow i).2 = (opcodeRow i).1) :
    ∃ j, decode w = .ok j := by
  cases i <;> simp only [opcodeRow] at row
  case irEdge iv =>
    have op : opField w = 0x1#4 := extractLsb'_eq_of_masked row rfl
    have z : zFieldI16 w = 0 := extractLsb'_eq_of_masked row rfl
    exact ⟨_, decode_ok (decode_op_irEdge op) (beq_of_eq z)⟩
  case irDecode =>
    have op : opField w = 0x2#4 := extractLsb'_eq_of_masked row rfl
    have z : zFieldN w = 0 := extractLsb'_eq_of_masked row rfl
    exact ⟨_, decode_ok (decode_op_irDecode op) (beq_of_eq z)⟩
  case dfRxbyte b =>
    have op : opField w = 0x3#4 := extractLsb'_eq_of_masked row rfl
    have z : zFieldB8 w = 0 := extractLsb'_eq_of_masked row rfl
    exact ⟨_, decode_ok (decode_op_dfRxbyte op) (beq_of_eq z)⟩
  case dfIdle =>
    have op : opField w = 0x4#4 := extractLsb'_eq_of_masked row rfl
    have z : zFieldN w = 0 := extractLsb'_eq_of_masked row rfl
    exact ⟨_, decode_ok (decode_op_dfIdle op) (beq_of_eq z)⟩
  case dfTake =>
    have op : opField w = 0x5#4 := extractLsb'_eq_of_masked row rfl
    have z : zFieldN w = 0 := extractLsb'_eq_of_masked row rfl
    exact ⟨_, decode_ok (decode_op_dfTake op) (beq_of_eq z)⟩
  case regRead rn =>
    have op : opField w = 0x6#4 := extractLsb'_eq_of_masked row rfl
    have z : zFieldR5 w = 0 := extractLsb'_eq_of_masked row rfl
    exact ⟨_, decode_ok (decode_op_regRead op) (beq_of_eq z)⟩

/-- A word the decoder rejects is in no row. -/
theorem not_matches_row_of_decode_error {w : Word} {e : DecodeError} (rejected : decode w = .error e) (i : Instr) :
    w &&& (opcodeRow i).2 ≠ (opcodeRow i).1 := fun row => by
  obtain ⟨j, accepted⟩ := decode_of_matches_row row
  rw [rejected] at accepted
  cases accepted

end Sys2Proof

namespace Sys2Proof.Machine

/-! ### The refusals of the step (R74, R75) -/

theorem step_of_decode_error {s : State} {e : DecodeError} (released : s.resetIn = false)
    (rejected : decode s.accept.1 = .error e) : step s = .refused (refusalOf e) := by
  simp [step, released, rejected]

/-- Settles O4: the decoder rejects a reserved opcode, and the step refuses what the decoder rejects. -/
theorem reservedOpcodesAreRefused : Obligations.ReservedOpcodesAreRefused := by
  rintro s _ released rfl reserved
  rw [← opField_toNat] at reserved
  exact step_of_decode_error released (decode_reservedOp reserved)

/-- Settles O5: one equation of the decoder per defined opcode; a rejected word is in no row. -/
theorem reservedBitsAreRefused : Obligations.ReservedBitsAreRefused := by
  rintro s w released rfl nonzero
  have rejected : decode s.accept.1 = .error (.reservedBits s.accept.1) := by
    obtain ⟨op, z⟩ | ⟨op, z⟩ | ⟨op, z⟩ | ⟨op, z⟩ | ⟨op, z⟩ | ⟨op, z⟩ := nonzero
    · exact decode_reservedBits (decode_op_irEdge (opField_eq op)) (extractLsb'_ne_zero z)
    · exact decode_reservedBits (decode_op_irDecode (opField_eq op)) (zFieldN_ne_zero z)
    · exact decode_reservedBits (decode_op_dfRxbyte (opField_eq op)) (extractLsb'_ne_zero z)
    · exact decode_reservedBits (decode_op_dfIdle (opField_eq op)) (zFieldN_ne_zero z)
    · exact decode_reservedBits (decode_op_dfTake (opField_eq op)) (zFieldN_ne_zero z)
    · exact decode_reservedBits (decode_op_regRead (opField_eq op)) (extractLsb'_ne_zero z)
  exact ⟨step_of_decode_error released rejected, not_matches_row_of_decode_error rejected⟩

end Sys2Proof.Machine
end

