-- ==== Sys2Proof/Proofs/ReceivedBytes.lean ====
section
/-! SUPPORT. One received byte under the DF invariant (spec/41_display_framer.md R132 to R138, spec/10_state.md R37): it
is consumed without a fault, keeps the invariant and leaves no stall counted; so does any sequence of bytes (R79). -/

namespace Sys2Proof.Machine

/-! ### The entries below an index -/

/-- Writing the entry at the count extends the written entries by one. -/
theorem written_succ {α : Type} {n k : Nat} {buf : Vector (Option α) n} (v : α) (inside : k < n)
    (written : ∀ i, i < k → ∃ b, buf[i]? = some (some b)) :
    ∀ i, i < k + 1 → ∃ b, (buf.setIfInBounds k (some v))[i]? = some (some b) := by
  intro i below
  obtain earlier | rfl := Nat.lt_succ_iff_lt_or_eq.mp below
  · rw [buf_set_other buf v (Nat.ne_of_gt earlier)]
    exact written i earlier
  · exact ⟨v, buf_set_same buf v inside⟩

/-! ### What the framer's common steps keep -/

theorem legalLength_iff (l : Byte) : legalLength l = true ↔ 3#8 ≤ l ∧ l ≤ 9#8 := by simp [legalLength]

section
variable {p : Params} {df df' : DfState} {b : Byte}

/-- IDLE asks for a legal DF_LEN only: the entries are forgotten. -/
theorem DfInv.of_toIdle (legal : df.len = 0#8 ∨ (3#8 ≤ df.len ∧ df.len ≤ 9#8)) : DfInv p df.toIdle where
  idle_clear _ := ⟨rfl, rfl⟩
  hdr_hi := nofun
  hdr_lo := nofun
  receiving := nofun
  stall_bounded := Nat.zero_le _
  written i below := absurd below (Nat.not_lt_zero i)
  len_legal := legal

theorem DfInv.clearStall (inv : DfInv p df) : DfInv p df.clearStall where
  idle_clear idle := ⟨(inv.idle_clear idle).1, rfl⟩
  hdr_hi := inv.hdr_hi
  hdr_lo := inv.hdr_lo
  receiving := inv.receiving
  stall_bounded := Nat.zero_le _
  written := inv.written
  len_legal := inv.len_legal

/-- A header's first byte is written at entry 0, in IDLE and again in GOT_HDR_HI (R133, R134). -/
theorem DfInv.gotFirstByte (inv : DfInv p df) :
    DfInv p { df.write 0 hdrHi with idx := 1#4, phase := .gotHdrHi } where
  idle_clear := nofun
  hdr_hi _ := ⟨rfl, buf_set_same df.buf hdrHi (by decide)⟩
  hdr_lo := nofun
  receiving := nofun
  stall_bounded := inv.stall_bounded
  written := written_succ hdrHi (by decide) fun i below => absurd below (Nat.not_lt_zero i)
  len_legal := inv.len_legal

theorem DfInv.rxIdle (inv : DfInv p df) (b : Byte) : DfInv p (rxIdle b df) := by
  unfold Machine.rxIdle
  split_ifs with header
  · exact header ▸ inv.gotFirstByte
  · exact inv

theorem DfInv.rxGotHdrHi (inv : DfInv p df) (phase : df.phase = .gotHdrHi) (b : Byte) :
    DfInv p (rxGotHdrHi b df) := by
  obtain ⟨one, first⟩ := inv.hdr_hi phase
  have written : ∀ i, i < 1 → ∃ b, df.buf[i]? = some (some b) := by simpa [one] using inv.written
  unfold Machine.rxGotHdrHi
  split_ifs with lo hi
  · subst lo
    exact {
      idle_clear := nofun
      hdr_hi := nofun
      hdr_lo := fun _ => ⟨rfl, (buf_set_other df.buf hdrLo (by decide)).trans first,
        buf_set_same df.buf hdrLo (by decide)⟩
      receiving := nofun
      stall_bounded := inv.stall_bounded
      written := written_succ hdrLo (by decide) written
      len_legal := inv.len_legal }
  · have again := inv.gotFirstByte
    rw [← phase] at again
    exact hi ▸ again
  · exact .of_toIdle inv.len_legal

theorem DfInv.rxGotHdrLo (inv : DfInv p df) (phase : df.phase = .gotHdrLo) (b : Byte) :
    DfInv p (rxGotHdrLo p b df) := by
  obtain ⟨two, -, -⟩ := inv.hdr_lo phase
  have written : ∀ i, i < 2 → ∃ b, df.buf[i]? = some (some b) := by simpa [two] using inv.written
  unfold Machine.rxGotHdrLo
  split_ifs with legal
  · obtain ⟨least, most⟩ := (legalLength_iff b).mp legal
    exact {
      idle_clear := nofun
      hdr_hi := nofun
      hdr_lo := nofun
      receiving := fun _ => ⟨least, most, le_refl 3, Nat.lt_add_of_pos_right (by bv_omega),
        buf_set_same df.buf b (by decide)⟩
      stall_bounded := inv.stall_bounded
      written := written_succ b (by decide) written
      len_legal := .inr ⟨least, most⟩ }
  · exact .of_toIdle inv.len_legal

/-- The bounds of R37 as numbers: at most 12 bytes are due, and the next one has an entry. -/
theorem DfInv.receiving_bounds (inv : DfInv p df) (phase : df.phase = .receiving) :
    3 ≤ df.len.toNat ∧ 3 ≤ df.idx.toNat ∧ df.idx.toNat < 3 + df.len.toNat ∧ df.idx.toNat < 12 := by
  obtain ⟨least, most, low, due, -⟩ := inv.receiving phase
  bv_omega

theorem DfState.append_idx_toNat (inside : df.idx.toNat < 12) :
    (df.append b).idx.toNat = df.idx.toNat + 1 := by
  rw [DfState.append_idx]
  bv_omega

theorem DfInv.written_append (inv : DfInv p df) (inside : df.idx.toNat < 12) (b : Byte) :
    ∀ i, i < (df.append b).idx.toNat → ∃ v, (df.append b).buf[i]? = some (some v) := by
  rw [DfState.append_idx_toNat inside]
  exact written_succ b inside inv.written

theorem DfInv.append (inv : DfInv p df) (phase : df.phase = .receiving)
    (due : (df.append b).idx.toNat < 3 + df.len.toNat) : DfInv p (df.append b) := by
  obtain ⟨least, most, -, -, length⟩ := inv.receiving phase
  obtain ⟨-, low, -, inside⟩ := inv.receiving_bounds phase
  have notIdle {q : DfPhase} (h : q ≠ .receiving) : (df.append b).phase ≠ q := by
    rw [DfState.append_phase, phase]
    exact h.symm
  exact {
    idle_clear := fun h => absurd h (notIdle nofun)
    hdr_hi := fun h => absurd h (notIdle nofun)
    hdr_lo := fun h => absurd h (notIdle nofun)
    receiving := fun _ => ⟨least, most, by rw [DfState.append_idx_toNat inside]; omega, due,
      (buf_set_other df.buf b (by omega)).trans length⟩
    stall_bounded := inv.stall_bounded
    written := inv.written_append inside b
    len_legal := inv.len_legal }

theorem complete_len (done : df.complete = .ok df') : df'.len = df.len := by
  obtain rfl | ⟨-, _, _, _, _, _, -, -, -, -, -, -, rfl⟩ := complete_cases done <;> rfl

theorem DfInv.rxReceiving (inv : DfInv p df) (phase : df.phase = .receiving)
    (received : rxReceiving p b df = .ok df') : DfInv p df' := by
  obtain ⟨-, rfl⟩ | ⟨-, due, rfl⟩ | ⟨-, -, done, completed, rfl⟩ := rxReceiving_cases received
  · exact .of_toIdle inv.len_legal
  · exact inv.append phase due
  · refine .of_toIdle ?_
    rw [complete_len completed]
    exact inv.len_legal

/-! ### One byte -/

/-- A consumed byte took the arm of its phase, on the sub-block with the stall count cleared (R132). -/
theorem dfReceive_cases (received : dfReceive p b df = .ok df') :
    (df.phase = .idle ∧ df' = rxIdle b df.clearStall) ∨
    (df.phase = .gotHdrHi ∧ df' = rxGotHdrHi b df.clearStall) ∨
    (df.phase = .gotHdrLo ∧ df' = rxGotHdrLo p b df.clearStall) ∨
    (df.phase = .receiving ∧ rxReceiving p b df.clearStall = .ok df') := by
  cases phase : df.phase with
  | idle => exact .inl ⟨rfl, Except.ok.inj (received.symm.trans (dfReceive_idle phase))⟩
  | gotHdrHi => exact .inr (.inl ⟨rfl, Except.ok.inj (received.symm.trans (dfReceive_gotHdrHi phase))⟩)
  | gotHdrLo => exact .inr (.inr (.inl ⟨rfl, Except.ok.inj (received.symm.trans (dfReceive_gotHdrLo phase))⟩))
  | receiving => exact .inr (.inr (.inr ⟨rfl, (dfReceive_receiving phase).symm.trans received⟩))

/-- Every byte keeps the invariant (R37). -/
theorem DfInv.dfReceive (inv : DfInv p df) (received : dfReceive p b df = .ok df') : DfInv p df' := by
  have cleared := inv.clearStall
  obtain ⟨-, rfl⟩ | ⟨phase, rfl⟩ | ⟨phase, rfl⟩ | ⟨phase, arm⟩ := dfReceive_cases received
  · exact cleared.rxIdle b
  · exact cleared.rxGotHdrHi phase b
  · exact cleared.rxGotHdrLo phase b
  · exact cleared.rxReceiving phase arm

/-- In RECEIVING the invariant leaves no fault: the next byte has an entry, and those that completion reads are
written. -/
theorem DfInv.rxReceiving_ok (inv : DfInv p df) (phase : df.phase = .receiving) (b : Byte) :
    ∃ df', Machine.rxReceiving p b df = .ok df' := by
  obtain ⟨least, -, -, inside⟩ := inv.receiving_bounds phase
  unfold Machine.rxReceiving
  split_ifs with full last
  · exact absurd inside (Nat.not_lt.mpr full)
  · have completes : ∃ done, (df.append b).complete = .ok done :=
      complete_ok least fun i due => inv.written_append inside b i (Nat.lt_of_lt_of_le due last)
    obtain ⟨done, completed⟩ := completes
    exact ⟨done.toIdle, by rw [completed]; rfl⟩
  · exact ⟨_, rfl⟩

/-- Under the invariant every byte is consumed without a fault (R180). -/
theorem DfInv.dfReceive_ok (inv : DfInv p df) (b : Byte) : ∃ df', Machine.dfReceive p b df = .ok df' := by
  cases phase : df.phase with
  | idle => exact ⟨_, dfReceive_idle phase⟩
  | gotHdrHi => exact ⟨_, dfReceive_gotHdrHi phase⟩
  | gotHdrLo => exact ⟨_, dfReceive_gotHdrLo phase⟩
  | receiving =>
    obtain ⟨df', received⟩ := inv.clearStall.rxReceiving_ok phase b
    exact ⟨df', (dfReceive_receiving phase).trans received⟩

/-- A consumed byte leaves no stall counted, in any state (R132). -/
theorem dfReceive_stall (received : dfReceive p b df = .ok df') : df'.stall = 0#16 := by
  obtain ⟨-, rfl⟩ | ⟨-, rfl⟩ | ⟨-, rfl⟩ | ⟨-, arm⟩ := dfReceive_cases received
  · unfold rxIdle
    split_ifs <;> rfl
  · unfold rxGotHdrHi
    split_ifs <;> rfl
  · unfold rxGotHdrLo
    split_ifs <;> rfl
  · obtain ⟨-, rfl⟩ | ⟨-, -, rfl⟩ | ⟨-, -, done, -, rfl⟩ := rxReceiving_cases arm <;> rfl

end

/-! ### Sequences of bytes (R79) -/

/-- From a state that meets the invariants DF_RXBYTE completes, keeps them and leaves no stall counted. -/
theorem Inv.exec_dfRxbyte {s : State} (inv : Inv s) (b : Byte) :
    ∃ t, exec (.dfRxbyte b) s = .next t ∧ Inv t ∧ t.df.stall = 0#16 := by
  obtain ⟨df, received⟩ := inv.df.dfReceive_ok b
  refine ⟨(s.setDf df).respond Response.none, ?_, ⟨inv.ir, inv.df.dfReceive received, fun _ => rfl⟩,
    dfReceive_stall received⟩
  simp only [exec, execDfRxbyte, dfRxbyte, received]

/-- No stall is counted after a sequence of bytes that began with none. -/
theorem Inv.execAll_dfRxbyte {s : State} (inv : Inv s) (clear : s.df.stall = 0#16) (bs : List Byte) :
    ∃ t, execAll (bs.map .dfRxbyte) s = .next t ∧ Inv t ∧ t.df.stall = 0#16 := by
  induction bs generalizing s with
  | nil => exact ⟨s, rfl, inv, clear⟩
  | cons b bs ih =>
    obtain ⟨u, first, inv, clear⟩ := inv.exec_dfRxbyte b
    rw [List.map_cons, execAll_cons_next first]
    exact ih inv clear

/-- Settles O42: the first byte clears the stall count and the others keep it clear. -/
theorem pollWithBytesIsNoStall : Obligations.PollWithBytesIsNoStall := by
  refine ⟨rfl, fun b bs => ⟨rfl, fun s inv => ?_⟩⟩
  obtain ⟨u, first, inv, clear⟩ := inv.exec_dfRxbyte b
  obtain ⟨t, others, -, clear⟩ := inv.execAll_dfRxbyte clear bs
  exact ⟨t, (execAll_cons_next first).trans others, clear⟩

end Sys2Proof.Machine
end

