-- ==== Sys2Proof/Proofs/InfraredOps.lean ====
section
/-! SUPPORT. What IR_EDGE and IR_DECODE answer (spec/40_ir_decoder.md R102 to R104), one equation per case, and the bits
of a decoded byte (R103). -/

namespace Sys2Proof.Machine

/-! ### IR_EDGE (R102) -/

section
variable {iv : Interval} {s : State}

/-- R102: while a frame is ready, an edge only gives the empty response. -/
theorem exec_irEdge_ready (ready : s.ir.ready = true) : exec (.irEdge iv) s = .next (s.respond Response.none) :=
  if_pos ready

/-- R27 is what an append needs: the index of a capture in progress is an entry of IR_BUF. -/
theorem irAppendOutside_eq_false {ir : IrState} (inside : ir.busy = true → ir.idx ≤ 32#6) :
    irAppendOutside theParams iv ir = false := by
  cases busy : ir.busy with
  | false => simp [irAppendOutside, busy]
  | true =>
    have below : ¬33 ≤ ir.idx.toNat := by
      have := inside busy
      bv_omega
    simp [irAppendOutside, below]

/-- R102: with no frame ready, an edge is a step of the capture. -/
theorem exec_irEdge_capture (notReady : s.ir.ready = false) (inside : s.ir.busy = true → s.ir.idx ≤ 32#6) :
    exec (.irEdge iv) s = .next ((s.setIr (irCapture theParams iv s.ir)).respond Response.none) := by
  simp [exec, execIrEdge, irEdge, notReady, irAppendOutside_eq_false inside]

end

section
variable {p : Params} {iv : Interval} {ir : IrState}

theorem irCapture_leader (leader : classify p iv = .leader) : irCapture p iv ir = ir.startCapture iv :=
  if_pos leader

theorem irCapture_discard (other : classify p iv ≠ .leader) (idle : ir.busy = false) : irCapture p iv ir = ir := by
  simp [irCapture, other, idle]

theorem irCapture_append (other : classify p iv ≠ .leader) (busy : ir.busy = true) :
    irCapture p iv ir = ir.append iv := by
  simp [irCapture, other, busy]

end

/-- R102: a leader leaves the capture awaiting its first data interval. -/
theorem IrState.startCapture_eq {ir : IrState} (iv : Interval) (notReady : ir.ready = false) :
    ir.startCapture iv =
      { buf := ir.buf.setIfInBounds 0 (some iv), idx := 1#6, busy := true, ready := false } := by
  rw [← notReady]
  rfl

/-- R102: an append in capture sets IR_READY exactly at the 33rd entry, for the index does not wrap. -/
theorem IrState.append_eq {ir : IrState} (iv : Interval) (notReady : ir.ready = false) (busy : ir.busy = true)
    (inside : ir.idx ≤ 32#6) :
    ir.append iv =
      { buf := ir.buf.setIfInBounds ir.idx.toNat (some iv), idx := ir.idx + 1#6, busy := true,
        ready := decide (ir.idx.toNat + 1 = 33) } := by
  have noWrap : (ir.idx + 1#6).toNat = ir.idx.toNat + 1 := by bv_omega
  have full : (ir.append iv).ready = decide (ir.idx.toNat + 1 = 33) := by
    rw [IrState.append_ready, notReady, noWrap, Bool.false_or, irCap_eq]
    rfl
  rw [← busy, ← full]
  rfl

/-- Settles O18, by the tests of R102 in their order. -/
theorem irEdgeResult : Obligations.IrEdgeResult := by
  intro iv s inside
  cases ready : s.ir.ready with
  | true =>
    rw [exec_irEdge_ready ready]
    rfl
  | false =>
    rw [exec_irEdge_capture ready fun busy => inside busy ready, if_neg Bool.false_ne_true]
    by_cases leader : classify theParams iv = .leader
    · rw [irCapture_leader leader, IrState.startCapture_eq iv ready, if_pos leader]
      rfl
    · rw [if_neg leader]
      cases busy : s.ir.busy with
      | false =>
        rw [irCapture_discard leader busy]
        rfl
      | true =>
        rw [irCapture_append leader busy, IrState.append_eq iv ready busy (inside busy ready)]
        rfl

/-! ### The bits of a decoded byte (R103) -/

section
variable {p : Params} {ir : IrState} {n i : Nat} {x y : Byte}

/-- A decode that succeeds has read its first entry, shifted in its bit and gone on with the others. -/
theorem decodeBits_succ_inv (decoded : decodeBits p ir (n + 1) i x = .ok y) :
    ∃ v, ir.buf[i]? = some (some v) ∧
      decodeBits p ir n (i + 1) ((x <<< 1) ||| (BitVec.ofBool (inOne p v)).setWidth 8) = .ok y := by
  cases entry : ir.read i with
  | error f => simp [decodeBits, entry] at decoded
  | ok v =>
    have written := IrState.read_eq_ok.mp entry
    exact ⟨v, written, decodeBits_cons written ▸ decoded⟩

theorem shiftIn_getLsbD_zero (x : Byte) (b : Bool) :
    ((x <<< 1) ||| (BitVec.ofBool b).setWidth 8).getLsbD 0 = b := by simp

theorem shiftIn_getLsbD_succ (x : Byte) (b : Bool) {k : Nat} (inside : k + 1 < 8) :
    ((x <<< 1) ||| (BitVec.ofBool b).setWidth 8).getLsbD (k + 1) = x.getLsbD k := by
  simp [inside, -BitVec.getLsbD_eq_getElem]

/-- The decode of `n` entries moves what it began with up by `n` places. -/
theorem decodeBits_getLsbD_shifted (decoded : decodeBits p ir n i x = .ok y) {k : Nat} (inside : k + n < 8) :
    y.getLsbD (k + n) = x.getLsbD k := by
  induction n generalizing i x k with
  | zero => rw [Except.ok.inj decoded, Nat.add_zero]
  | succ n ih =>
    obtain ⟨v, -, rest⟩ := decodeBits_succ_inv decoded
    calc y.getLsbD (k + (n + 1))
      _ = y.getLsbD (k + 1 + n) := by rw [Nat.add_assoc, Nat.add_comm 1]
      _ = _ := ih rest (by omega)
      _ = x.getLsbD k := shiftIn_getLsbD_succ x _ (by omega)

/-- The bits that the decode of `n` entries shifts in: 1 exactly for an entry of the logic-1 window, the first entry in
the most significant place. -/
theorem decodeBits_getLsbD_entry (decoded : decodeBits p ir n i x = .ok y) (width : n ≤ 8) {j : Nat} {v : Interval}
    (place : j < n) (entry : ir.buf[i + j]? = some (some v)) : y.getLsbD (n - 1 - j) = inOne p v := by
  induction n generalizing i x j with
  | zero => exact absurd place (Nat.not_lt_zero j)
  | succ n ih =>
    obtain ⟨u, first, rest⟩ := decodeBits_succ_inv decoded
    cases j with
    | zero =>
      obtain rfl : u = v := by simpa [first] using entry
      calc y.getLsbD (n + 1 - 1 - 0)
        _ = y.getLsbD (0 + n) := by simp
        _ = _ := decodeBits_getLsbD_shifted rest (by omega)
        _ = inOne p u := shiftIn_getLsbD_zero x _
    | succ j =>
      have later : ir.buf[i + 1 + j]? = some (some v) := by rwa [Nat.add_right_comm]
      calc y.getLsbD (n + 1 - 1 - (j + 1))
        _ = y.getLsbD (n - 1 - j) := by congr 1; omega
        _ = inOne p v := ih rest (by omega) (by omega) later

end

theorem inOne_eq_decide (p : Params) (v : Interval) :
    inOne p v = decide (p.one.min ≤ v.toNat ∧ v.toNat ≤ p.one.max) :=
  (Bool.decide_and _ _).symm

/-- Bit 7 - j of byte k is the logic-1 test of entry 1 + 8k + j (R103). -/
theorem decodeByte_getLsbD {p : Params} {ir : IrState} {k : Nat} {y : Byte} (decoded : decodeByte p ir k = .ok y)
    {j : Nat} {v : Interval} (place : j < 8) (entry : ir.buf[1 + 8 * k + j]? = some (some v)) :
    y.getLsbD (7 - j) = decide (p.one.min ≤ v.toNat ∧ v.toNat ≤ p.one.max) :=
  (decodeBits_getLsbD_entry decoded (le_refl 8) place entry).trans (inOne_eq_decide p v)

/-! ### IR_DECODE (R104) -/

/-- A frame whose 32 data entries are written decodes without a fault. -/
theorem decodeFrame_ok {p : Params} {ir : IrState}
    (written : ∀ i, 1 ≤ i → i ≤ 32 → ∃ v, ir.buf[i]? = some (some v)) : ∃ r, decodeFrame p ir = .ok r := by
  have byte_ok (k : Nat) (inside : k < 4) : ∃ y, decodeByte p ir k = .ok y :=
    decodeBits_ok p ir 8 (1 + 8 * k) 0#8 fun i low high => written i (by omega) (by omega)
  obtain ⟨a, first⟩ := byte_ok 0 (by decide)
  obtain ⟨na, second⟩ := byte_ok 1 (by decide)
  obtain ⟨c, third⟩ := byte_ok 2 (by decide)
  obtain ⟨nc, fourth⟩ := byte_ok 3 (by decide)
  refine ⟨⟨true, commandOk c nc, a ++ na ++ c ++ nc⟩, ?_⟩
  rw [decodeFrame, first, second, third, fourth]
  rfl

/-- R104: with no frame ready, IR_DECODE only gives the empty response. -/
theorem exec_irDecode_notReady {s : State} (notReady : s.ir.ready = false) :
    exec .irDecode s = .next (s.respond Response.none) := by
  simp [exec, execIrDecode, irDecode, notReady]

/-- R104: a frame that decodes is the response, and is released. -/
theorem exec_irDecode_ready {s : State} {r : Response} (ready : s.ir.ready = true)
    (decoded : decodeFrame theParams s.ir = .ok r) :
    exec .irDecode s = .next ((s.setIr s.ir.release).respond r) := by
  simp [exec, execIrDecode, irDecode, ready, decoded]

/-- Settles O20: a ready frame's four bytes decode, each bit from its own entry. -/
theorem irDecodeResult : Obligations.IrDecodeResult := by
  intro s
  refine ⟨exec_irDecode_notReady, fun ready written => ?_⟩
  obtain ⟨r, decoded⟩ := decodeFrame_ok (p := theParams) written
  obtain ⟨a, na, c, nc, first, second, third, fourth, rfl⟩ := decodeFrame_cases decoded
  exact ⟨a, na, c, nc, exec_irDecode_ready ready decoded, fun j v place =>
    ⟨decodeByte_getLsbD first place, decodeByte_getLsbD second place, decodeByte_getLsbD third place,
      decodeByte_getLsbD fourth place⟩⟩

end Sys2Proof.Machine
end

