-- ==== Sys2Proof/Proofs/FramerOps.lean ====
section
/-! SUPPORT. What DF_RXBYTE, DF_IDLE and DF_TAKE answer (spec/41_display_framer.md R133 to R141), one equation per case,
and which operations count an error (R139, spec/60_exceptions.md R182). -/

namespace Sys2Proof.Machine

section
variable {p : Params} {b : Byte} {df : DfState}

/-! ### One byte outside RECEIVING (R133 to R135) -/

theorem rxIdle_header (header : b = hdrHi) :
    rxIdle b df = { df.write 0 b with idx := 1#4, phase := .gotHdrHi } := if_pos header

theorem rxIdle_ignored (other : b ≠ hdrHi) : rxIdle b df = df := if_neg other

theorem rxGotHdrHi_header (header : b = hdrLo) :
    rxGotHdrHi b df = { df.write 1 b with idx := 2#4, phase := .gotHdrLo } := if_pos header

theorem rxGotHdrHi_restart (again : b = hdrHi) : rxGotHdrHi b df = { df.write 0 b with idx := 1#4 } := by
  subst again
  rfl

theorem rxGotHdrHi_discard (notLo : b ≠ hdrLo) (notHi : b ≠ hdrHi) : rxGotHdrHi b df = df.toIdle :=
  (if_neg notLo).trans (if_neg notHi)

theorem legalLength_iff_toNat (l : Byte) : legalLength l = true ↔ 3 ≤ l.toNat ∧ l.toNat ≤ 9 := legalLength_iff l

theorem rxGotHdrLo_legal (legal : 3 ≤ b.toNat ∧ b.toNat ≤ 9) :
    rxGotHdrLo p b df = { df.write 2 b with idx := 3#4, len := b, phase := .receiving } :=
  if_pos ((legalLength_iff_toNat b).mpr legal)

theorem rxGotHdrLo_illegal (illegal : ¬(3 ≤ b.toNat ∧ b.toNat ≤ 9)) : rxGotHdrLo p b df = (df.errInc p).toIdle :=
  if_neg (mt (legalLength_iff_toNat b).mp illegal)

/-! ### One byte in RECEIVING (R136 to R138) -/

/-- R137: the capacity check comes before the append. -/
theorem rxReceiving_full (full : 12 ≤ df.idx.toNat) : rxReceiving p b df = .ok (df.errInc p).toIdle := if_pos full

/-- R136: the last byte of a frame is appended, completes it, and leaves the framer in IDLE. -/
theorem rxReceiving_completes {done : DfState} (inside : df.idx.toNat < 12)
    (last : df.idx.toNat + 1 = 3 + df.len.toNat) (completed : (df.append b).complete = .ok done) :
    rxReceiving p b df = .ok done.toIdle := by
  have reached : 3 + df.len.toNat ≤ (df.append b).idx.toNat := by rw [DfState.append_idx_toNat inside, last]
  rw [rxReceiving, if_neg (Nat.not_le.mpr inside), if_pos reached, completed]
  rfl

theorem recognised_iff (cmd : Byte) : recognised cmd = true ↔ cmd = 0x82#8 ∨ cmd = 0x83#8 := by
  simp [recognised, cmdWrite, cmdReadResp]

/-- R138 for a frame whose entries are `e`: the pair and DF_READY are written together, for a recognised command with a
payload only. -/
theorem complete_eq {e : Nat → Byte} (least : 3 ≤ df.len.toNat)
    (entries : ∀ i, i < 3 + df.len.toNat → df.read i = .ok (e i)) :
    df.complete = .ok (if (e 3 = 0x82#8 ∨ e 3 = 0x83#8) ∧ 6 ≤ df.len.toNat
      then { df with addr := e 4 ++ e 5, value := e 7 ++ e 8, ready := true } else df) := by
  have cmd := entries 3 (by omega)
  have aHi := entries 4 (by omega)
  have aLo := entries 5 (by omega)
  by_cases known : e 3 = 0x82#8 ∨ e 3 = 0x83#8
  · by_cases payload : 6 ≤ df.len.toNat
    · rw [if_pos ⟨known, payload⟩]
      exact complete_payload cmd ((recognised_iff _).mpr known) aHi aLo (entries 7 (by omega)) (entries 8 (by omega))
        payload
    · rw [if_neg fun both => payload both.2]
      exact complete_short cmd aHi aLo payload
  · rw [if_neg fun both => known both.1]
    exact complete_unrecognised cmd (Bool.eq_false_iff.mpr (mt (recognised_iff _).mp known))

/-- Under the invariant the byte in RECEIVING leaves every entry up to the new count written. -/
theorem DfInv.read_append {e : Nat → Byte} (inv : DfInv p df) (inside : df.idx.toNat < 12)
    (entries : ∀ i v, (df.buf.setIfInBounds df.idx.toNat (some b))[i]? = some (some v) → e i = v) :
    ∀ i, i < df.idx.toNat + 1 → (df.append b).read i = .ok (e i) := by
  intro i below
  obtain ⟨v, written⟩ := written_succ b inside inv.written i below
  rw [entries i v written]
  exact DfState.read_eq_ok.mpr written

/-! ### An empty poll (R140) -/

theorem dfPollEmpty_idle (idle : df.phase = .idle) : dfPollEmpty p df = df := if_pos idle

theorem dfPollEmpty_timeout (busy : df.phase ≠ .idle) (exceeded : p.stallLimit < (df.stall + 1#16).toNat) :
    dfPollEmpty p df = (df.countStall.errInc p).toIdle := (if_neg busy).trans (if_pos exceeded)

theorem dfPollEmpty_counts (busy : df.phase ≠ .idle) (within : ¬p.stallLimit < (df.stall + 1#16).toNat) :
    dfPollEmpty p df = df.countStall := (if_neg busy).trans (if_neg within)

end

/-! ### The answers -/

section
variable {b : Byte} {s : State}

/-- R132: the answer to a consumed byte. -/
theorem exec_dfRxbyte_ok {df : DfState} (received : dfReceive theParams b s.df = .ok df) :
    exec (.dfRxbyte b) s = .next { s with resp := ⟨false, false, 0#32⟩, df := df } := by
  have answer : execDfRxbyte b s = .next ((s.setDf df).respond Response.none) := by
    rw [execDfRxbyte, dfRxbyte, received]
  exact answer

theorem exec_dfIdle_eq (s : State) :
    exec .dfIdle s = .next { s with resp := ⟨false, false, 0#32⟩, df := dfPollEmpty theParams s.df } :=
  execDfIdle_eq s

theorem exec_dfTake_ready (ready : s.df.ready = true) :
    exec .dfTake s = .next ((s.setDf s.df.takePair).respond ⟨true, false, s.df.addr ++ s.df.value⟩) := if_pos ready

theorem exec_dfTake_notReady (notReady : ¬s.df.ready = true) : exec .dfTake s = .next (s.respond Response.none) :=
  if_neg notReady

end

/-- Settles O31: the invariant gives the byte an entry and has every other entry of the frame written. -/
theorem rxbyteCompletesFrame : Obligations.RxbyteCompletesFrame := by
  intro b s e inv phase last entries
  obtain ⟨least, -, -, inside⟩ := inv.receiving_bounds phase
  have read : ∀ i, i < 3 + s.df.len.toNat → (s.df.clearStall.append b).read i = .ok (e i) := by
    rw [← last]
    exact inv.clearStall.read_append inside entries
  have received := (dfReceive_receiving phase).trans
    (rxReceiving_completes (p := theParams) inside last (complete_eq least read))
  rw [exec_dfRxbyte_ok received, DfState.append_len, DfState.clearStall_len]
  by_cases latches : (e 3 = 0x82#8 ∨ e 3 = 0x83#8) ∧ 6 ≤ s.df.len.toNat
  · rw [if_pos latches, if_pos latches]
    rfl
  · rw [if_neg latches, if_neg latches]
    rfl

/-! ### The error count (R139, R182) -/

theorem errSucc_saturate_toNat (e : BitVec 8) : (errSucc .saturate e).toNat = min 255 (e.toNat + 1) := by
  rw [errSucc]
  split_ifs <;> bv_omega

theorem errSucc_wrap_toNat (e : BitVec 8) : (errSucc .wrap e).toNat = (e.toNat + 1) % 256 := BitVec.toNat_add e 1#8

section
variable {i : Instr} {b : Byte} {p : Params} {s t : State} {df df' : DfState}

/-- Only the three DF operations write DF state (R61). -/
theorem exec_df_of_not_isDfOp (answer : exec i s = .next t) (other : ¬isDfOp i) : t.df = s.df := by
  cases i with
  | irEdge iv => obtain ⟨-, rfl⟩ | ⟨-, -, rfl⟩ := execIrEdge_cases answer <;> rfl
  | irDecode => obtain ⟨-, rfl⟩ | ⟨-, _, -, rfl⟩ := execIrDecode_cases answer <;> rfl
  | dfRxbyte b => exact absurd (.inl ⟨b, rfl⟩) other
  | dfIdle => exact absurd (.inr (.inl rfl)) other
  | dfTake => exact absurd (.inr (.inr rfl)) other
  | regRead rn =>
    obtain ⟨_, -, rfl⟩ := execRegRead_cases answer
    rfl

theorem rxIdle_err : (rxIdle b df).err = df.err := by
  unfold rxIdle
  split_ifs <;> rfl

theorem rxGotHdrHi_err : (rxGotHdrHi b df).err = df.err := by
  unfold rxGotHdrHi
  split_ifs <;> rfl

theorem complete_err (done : df.complete = .ok df') : df'.err = df.err := by
  obtain rfl | ⟨-, _, _, _, _, _, -, -, -, -, -, -, rfl⟩ := complete_cases done <;> rfl

theorem rxReceiving_err (received : rxReceiving p b df = .ok df') (inside : ¬12 ≤ df.idx.toNat) :
    df'.err = df.err := by
  obtain ⟨full, -⟩ | ⟨-, -, rfl⟩ | ⟨-, -, done, completed, rfl⟩ := rxReceiving_cases received
  · exact absurd full inside
  · rfl
  · exact (DfState.toIdle_err done).trans ((complete_err completed).trans (DfState.append_err df b))

/-- A byte that is no illegal length and meets no full buffer counts nothing. -/
theorem dfReceive_err (received : dfReceive p b df = .ok df')
    (length : df.phase = .gotHdrLo → 3 ≤ b.toNat ∧ b.toNat ≤ 9)
    (inside : df.phase = .receiving → ¬12 ≤ df.idx.toNat) : df'.err = df.err := by
  obtain ⟨-, rfl⟩ | ⟨-, rfl⟩ | ⟨phase, rfl⟩ | ⟨phase, arm⟩ := dfReceive_cases received
  · exact rxIdle_err
  · exact rxGotHdrHi_err
  · rw [rxGotHdrLo_legal (length phase)]
    rfl
  · exact (rxReceiving_err arm (inside phase)).trans (DfState.clearStall_err df)

/-- An empty poll that is no timeout counts nothing. -/
theorem dfPollEmpty_err (within : df.phase ≠ .idle → ¬p.stallLimit < (df.stall + 1#16).toNat) :
    (dfPollEmpty p df).err = df.err := by
  by_cases idle : df.phase = .idle
  · rw [dfPollEmpty_idle idle]
  · rw [dfPollEmpty_counts idle (within idle)]
    rfl

/-- Each of the three framing errors counts one error. -/
theorem err_of_framingError (answer : exec i s = .next t) (error : framingError i s) :
    t.df.err = errSucc theParams.errMode s.df.err := by
  obtain ⟨b, rfl, phase, illegal⟩ | ⟨b, rfl, phase, full⟩ | ⟨rfl, busy, exceeded⟩ := error
  · rw [exec_dfRxbyte_ok (dfReceive_gotHdrLo phase), rxGotHdrLo_illegal illegal] at answer
    obtain rfl := Host.Outcome.next.inj answer
    rfl
  · rw [exec_dfRxbyte_ok ((dfReceive_receiving phase).trans (rxReceiving_full full))] at answer
    obtain rfl := Host.Outcome.next.inj answer
    rfl
  · rw [exec_dfIdle_eq, dfPollEmpty_timeout busy exceeded] at answer
    obtain rfl := Host.Outcome.next.inj answer
    rfl

/-- No other operation writes DF_ERR. -/
theorem err_of_not_framingError (answer : exec i s = .next t) (noError : ¬framingError i s) :
    t.df.err = s.df.err := by
  by_cases dfOp : isDfOp i
  · obtain ⟨b, rfl⟩ | rfl | rfl := dfOp
    · obtain ⟨df, received, rfl⟩ := execDfRxbyte_cases answer
      refine dfReceive_err received (fun phase => ?_) (fun phase full => ?_)
      · by_contra illegal
        exact noError (.inl ⟨b, rfl, phase, illegal⟩)
      · exact noError (.inr (.inl ⟨b, rfl, phase, full⟩))
    · rw [exec_dfIdle_eq] at answer
      obtain rfl := Host.Outcome.next.inj answer
      exact dfPollEmpty_err fun busy exceeded => noError (.inr (.inr ⟨rfl, busy, exceeded⟩))
    · obtain ⟨-, rfl⟩ | ⟨-, rfl⟩ := execDfTake_cases answer <;> rfl
  · rw [exec_df_of_not_isDfOp answer dfOp]

end

/-- Settles O32: the count after a framing error, in both modes, and that there is no other. -/
theorem framingErrorsAreCounted : Obligations.FramingErrorsAreCounted := by
  intro i s t answer
  refine ⟨fun error => ?_, err_of_not_framingError answer⟩
  rw [err_of_framingError answer error]
  cases theParams.errMode with
  | saturate => exact errSucc_saturate_toNat s.df.err
  | wrap => exact errSucc_wrap_toNat s.df.err

/-! ### The whole effect of each operation -/

/-- Settles O25, by the test of R133. -/
theorem rxbyteInIdle : Obligations.RxbyteInIdle := by
  intro b s phase
  rw [exec_dfRxbyte_ok (dfReceive_idle phase)]
  by_cases header : b = 0x5A#8
  · rw [if_pos header, rxIdle_header header]
    rfl
  · rw [if_neg header, rxIdle_ignored header]
    rfl

/-- Settles O26, by the tests of R134 in their order. -/
theorem rxbyteInGotHdrHi : Obligations.RxbyteInGotHdrHi := by
  intro b s phase
  rw [exec_dfRxbyte_ok (dfReceive_gotHdrHi phase)]
  by_cases header : b = 0xA5#8
  · rw [if_pos header, rxGotHdrHi_header header]
    rfl
  · rw [if_neg header]
    by_cases again : b = 0x5A#8
    · rw [if_pos again, rxGotHdrHi_restart again]
      rfl
    · rw [if_neg again, rxGotHdrHi_discard header again]
      rfl

/-- Settles O27, by the length test of R135. -/
theorem rxbyteInGotHdrLo : Obligations.RxbyteInGotHdrLo := by
  intro b s phase
  rw [exec_dfRxbyte_ok (dfReceive_gotHdrLo phase)]
  by_cases legal : 3 ≤ b.toNat ∧ b.toNat ≤ 9
  · rw [if_pos legal, rxGotHdrLo_legal legal]
    rfl
  · rw [if_neg legal, rxGotHdrLo_illegal legal]
    rfl

/-- Settles O29: the capacity check of R137 drops the byte. -/
theorem capacityCheckDropsByte : Obligations.CapacityCheckDropsByte := fun _ _ phase full =>
  exec_dfRxbyte_ok ((dfReceive_receiving phase).trans (rxReceiving_full full))

/-- Settles O34, by the tests of R140 in their order. -/
theorem dfIdleResult : Obligations.DfIdleResult := by
  intro s
  rw [exec_dfIdle_eq]
  by_cases idle : s.df.phase = .idle
  · rw [if_pos idle, dfPollEmpty_idle idle]
  · rw [if_neg idle]
    by_cases exceeded : theParams.stallLimit < (s.df.stall + 1#16).toNat
    · rw [if_pos exceeded, dfPollEmpty_timeout idle exceeded]
      rfl
    · rw [if_neg exceeded, dfPollEmpty_counts idle exceeded]
      rfl

/-- Settles O43, by the test of R141. -/
theorem dfTakeResult : Obligations.DfTakeResult := by
  intro s
  by_cases ready : s.df.ready = true
  · rw [exec_dfTake_ready ready, if_pos ready]
    rfl
  · rw [exec_dfTake_notReady ready, if_neg ready]
    rfl

end Sys2Proof.Machine
end

