-- ==== Sys2Proof/Proofs/RegisterRead.lean ====
section
/-! SUPPORT. The registers as numbers, IR_STATUS and DF_STATUS composed from their fields (spec/10_state.md R39), and
what REG_READ answers (spec/42_host_access.md R170). -/

namespace Sys2Proof.Machine

/-- Fields side by side are the digits of one number. -/
theorem toNat_append_eq_add {m n : Nat} (x : BitVec m) (y : BitVec n) :
    (x ++ y).toNat = x.toNat * 2 ^ n + y.toNat := by
  rw [BitVec.toNat_append, ← Nat.shiftLeft_add_eq_or_of_lt y.isLt, Nat.shiftLeft_eq]

theorem irStatus_toNat (ir : IrState) :
    (irStatus ir).toNat = 4 * (!ir.ready).toNat + 2 * ir.busy.toNat + ir.ready.toNat := by
  rw [irStatus, BitVec.toNat_setWidth_of_le (by decide), toNat_append_eq_add, toNat_append_eq_add]
  simp only [BitVec.toNat_ofBool, IrState.edgeEn]
  omega

theorem dfStatus_toNat (df : DfState) : (dfStatus df).toNat = 4 * df.ready.toNat + df.phase.code.toNat := by
  rw [dfStatus, BitVec.toNat_setWidth_of_le (by decide), toNat_append_eq_add, BitVec.toNat_ofBool]
  omega

/-- The value of each register as R39 composes it. -/
theorem windowValues_map_toNat (s : State) :
    (windowValues s).map BitVec.toNat =
      [4 * (!s.ir.ready).toNat + 2 * s.ir.busy.toNat + s.ir.ready.toNat, s.ir.idx.toNat,
        4 * s.df.ready.toNat + s.df.phase.code.toNat, s.df.idx.toNat, s.df.len.toNat, s.df.stall.toNat,
        s.df.err.toNat, s.df.addr.toNat, s.df.value.toNat] := by
  simp only [windowValues, List.map_cons, List.map_nil, irStatus_toNat, dfStatus_toNat,
    BitVec.toNat_setWidth_of_le (show 6 ≤ 16 by decide), BitVec.toNat_setWidth_of_le (show 4 ≤ 16 by decide),
    BitVec.toNat_setWidth_of_le (show 8 ≤ 16 by decide)]

/-- A defined register is read out, zero-extended (R170). -/
theorem execRegRead_defined {s : State} {rn : RegNum} {r : Half} (h : readWindow s rn = some r) :
    execRegRead rn s = .next (s.respond ⟨true, false, BitVec.ofNat 32 r.toNat⟩) := by
  rw [execRegRead, h, BitVec.ofNat_toNat]

/-- Settles O45: a composed value is that of the register with its number, which the read answers, and a reserved number
is past the end of the window. -/
theorem regReadResult : Obligations.RegReadResult := by
  intro s rn
  refine ⟨fun r composed => ?_, fun reserved => execRegRead_reserved s reserved⟩
  have value : ((windowValues s).map BitVec.toNat)[rn.toNat]? = some r := by
    rw [windowValues_map_toNat, ← composed]
    cases s.df.phase <;> rfl
  obtain ⟨reg, hreg, rfl⟩ := Option.map_eq_some_iff.mp (List.getElem?_map.symm.trans value)
  exact execRegRead_defined ((readWindow_eq_getElem? s rn).trans hreg)

end Sys2Proof.Machine
end

/-! SUPPORT. Decoder and encoder are inverse to each other, and the opcode map says which row a word decodes to
(spec/30_encoding.md R73 to R77). -/

namespace Sys2Proof

/-! ### The fields of a word with an operand in its low bits (R71, R72) -/

section
variable {n start len : Nat}

/-- A field above the operand is the match word's. -/
theorem extractLsb'_or_operand_above (m : Word) (x : BitVec n) (above : n ≤ start) :
    (m ||| x.setWidth 32).extractLsb' start len = m.extractLsb' start len := by
  have none : (x.setWidth 32).extractLsb' start len = 0#len := by
    ext k inside
    have high : x.getLsbD (start + k) = false := BitVec.getLsbD_of_ge _ _ (by omega)
    simp [BitVec.getElem_extractLsb', high]
  rw [BitVec.extractLsb'_or, none, BitVec.or_zero]

/-- Where the match word has no bits, the operand stands. -/
theorem extractLsb'_or_operand (m : Word) (x : BitVec n) (fits : n ≤ 32) (free : m.extractLsb' 0 n = 0#n) :
    (m ||| x.setWidth 32).extractLsb' 0 n = x := by
  have operand : (x.setWidth 32).extractLsb' 0 n = x := by
    ext k inside
    have low : k < 32 := by omega
    simp [BitVec.getElem_extractLsb', low, inside]
  rw [BitVec.extractLsb'_or, free, operand, BitVec.zero_or]

/-- A word is its opcode, its Z field and its operand field. -/
theorem word_eq_of_fields {v w : Word} (n : Nat) (op : opField v = opField w)
    (z : v.extractLsb' n (28 - n) = w.extractLsb' n (28 - n)) (operand : v.extractLsb' 0 n = w.extractLsb' 0 n) :
    v = w := by
  have bit_eq {start len k : Nat} (field : v.extractLsb' start len = w.extractLsb' start len) (low : start ≤ k)
      (high : k < start + len) : v.getLsbD k = w.getLsbD k := by
    have at_bit := congrArg (fun f => f.getLsbD (k - start)) field
    simpa only [BitVec.getLsbD_extractLsb', show k - start < len by omega, Nat.add_sub_cancel' low, decide_true,
      Bool.true_and] using at_bit
  refine BitVec.eq_of_getLsbD_eq fun k inside => ?_
  obtain low | low := Nat.lt_or_ge k n
  · exact bit_eq operand (Nat.zero_le k) (by omega)
  · obtain mid | mid := Nat.lt_or_ge k 28
    · exact bit_eq z low (by omega)
    · exact bit_eq op mid (by omega)

end

/-! ### The word of each operation decodes (R77) -/

theorem decode_encode_irEdge (iv : Interval) : decode (encode (.irEdge iv)) = .ok (.irEdge iv) := by
  have op : opField (encode (.irEdge iv)) = 0x1#4 := extractLsb'_or_operand_above _ iv (by decide)
  have z : zFieldI16 (encode (.irEdge iv)) = 0 := extractLsb'_or_operand_above _ iv (by decide)
  have operand : ivField (encode (.irEdge iv)) = iv := extractLsb'_or_operand _ iv (by decide) rfl
  rw [decode_ok (decode_op_irEdge op) (beq_of_eq z), operand]

theorem decode_encode_dfRxbyte (b : Byte) : decode (encode (.dfRxbyte b)) = .ok (.dfRxbyte b) := by
  have op : opField (encode (.dfRxbyte b)) = 0x3#4 := extractLsb'_or_operand_above _ b (by decide)
  have z : zFieldB8 (encode (.dfRxbyte b)) = 0 := extractLsb'_or_operand_above _ b (by decide)
  have operand : byteField (encode (.dfRxbyte b)) = b := extractLsb'_or_operand _ b (by decide) rfl
  rw [decode_ok (decode_op_dfRxbyte op) (beq_of_eq z), operand]

theorem decode_encode_regRead (rn : RegNum) : decode (encode (.regRead rn)) = .ok (.regRead rn) := by
  have op : opField (encode (.regRead rn)) = 0x6#4 := extractLsb'_or_operand_above _ rn (by decide)
  have z : zFieldR5 (encode (.regRead rn)) = 0 := extractLsb'_or_operand_above _ rn (by decide)
  have operand : rnField (encode (.regRead rn)) = rn := extractLsb'_or_operand _ rn (by decide) rfl
  rw [decode_ok (decode_op_regRead op) (beq_of_eq z), operand]

/-- Settles O1, by the fields of each operation's word. -/
theorem decodeOfEncodeIsIdentity : Obligations.DecodeOfEncodeIsIdentity := by
  intro i
  cases i with
  | irEdge iv => exact decode_encode_irEdge iv
  | irDecode => exact decode_ok (decode_op_irDecode rfl) rfl
  | dfRxbyte b => exact decode_encode_dfRxbyte b
  | dfIdle => exact decode_ok (decode_op_dfIdle rfl) rfl
  | dfTake => exact decode_ok (decode_op_dfTake rfl) rfl
  | regRead rn => exact decode_encode_regRead rn

/-! ### A word that decodes is the word of its operation (R77) -/

section
variable {w : Word}

/-- The row of an opcode answers its operation only for a Z field of 0 (R75). -/
theorem decode_ok_inv {i j : Instr} {zIsZero : Bool} (row : decode w = requireZero w zIsZero i)
    (accepted : decode w = .ok j) : zIsZero = true ∧ i = j := by
  rw [row] at accepted
  cases zIsZero with
  | true => exact ⟨rfl, Except.ok.inj accepted⟩
  | false => cases accepted

/-- A match word with an operand is the word with these fields. -/
theorem or_operand_eq_of_fields {n : Nat} {m : Word} (fits : n ≤ 28) (free : m.extractLsb' 0 n = 0#n)
    (op : opField w = opField m) (z : w.extractLsb' n (28 - n) = m.extractLsb' n (28 - n)) :
    m ||| (w.extractLsb' 0 n).setWidth 32 = w :=
  word_eq_of_fields n ((extractLsb'_or_operand_above m _ fits).trans op.symm)
    ((extractLsb'_or_operand_above m _ (le_refl n)).trans z.symm)
    (extractLsb'_or_operand m _ (fits.trans (by decide)) free)

/-- A word without operand is its match word. -/
theorem eq_of_op_of_zFieldN {m : Word} (op : opField w = opField m) (z : zFieldN w = zFieldN m) : m = w :=
  word_eq_of_fields 0 op.symm z.symm (BitVec.eq_of_zero_length rfl)

/-- An opcode that is not reserved is one of the six (R74). -/
theorem opField_cases (defined : ¬((opField w).toNat = 0 ∨ 7 ≤ (opField w).toNat)) :
    opField w = 0x1#4 ∨ opField w = 0x2#4 ∨ opField w = 0x3#4 ∨ opField w = 0x4#4 ∨ opField w = 0x5#4 ∨
      opField w = 0x6#4 := by bv_omega

theorem opField_defined_of_decode_ok {i : Instr} (accepted : decode w = .ok i) :
    ¬((opField w).toNat = 0 ∨ 7 ≤ (opField w).toNat) := fun reserved =>
  nomatch (decode_reservedOp reserved).symm.trans accepted

end

/-- Settles O2: by its opcode the word has the fields of its operation's word. -/
theorem encodeOfDecodeIsIdentity : Obligations.EncodeOfDecodeIsIdentity := by
  intro w i accepted
  obtain op | op | op | op | op | op := opField_cases (opField_defined_of_decode_ok accepted)
  · obtain ⟨z, rfl⟩ := decode_ok_inv (decode_op_irEdge op) accepted
    exact or_operand_eq_of_fields (n := 16) (by decide) rfl op (eq_of_beq z)
  · obtain ⟨z, rfl⟩ := decode_ok_inv (decode_op_irDecode op) accepted
    exact eq_of_op_of_zFieldN op (eq_of_beq z)
  · obtain ⟨z, rfl⟩ := decode_ok_inv (decode_op_dfRxbyte op) accepted
    exact or_operand_eq_of_fields (n := 8) (by decide) rfl op (eq_of_beq z)
  · obtain ⟨z, rfl⟩ := decode_ok_inv (decode_op_dfIdle op) accepted
    exact eq_of_op_of_zFieldN op (eq_of_beq z)
  · obtain ⟨z, rfl⟩ := decode_ok_inv (decode_op_dfTake op) accepted
    exact eq_of_op_of_zFieldN op (eq_of_beq z)
  · obtain ⟨z, rfl⟩ := decode_ok_inv (decode_op_regRead op) accepted
    exact or_operand_eq_of_fields (n := 5) (by decide) rfl op (eq_of_beq z)

/-! ### The opcode map (R73) -/

theorem decode_eq_ok_iff (w : Word) (i : Instr) : decode w = .ok i ↔ encode i = w :=
  ⟨encodeOfDecodeIsIdentity w i, fun word => word ▸ decodeOfEncodeIsIdentity i⟩

theorem encode_matches_row (i : Instr) : Laws.EncodeMatchesRow.Statement i := by
  cases i with
  | irEdge iv => exact Laws.EncodeMatchesRow.irEdge iv
  | irDecode => exact Laws.EncodeMatchesRow.irDecode
  | dfRxbyte b => exact Laws.EncodeMatchesRow.dfRxbyte b
  | dfIdle => exact Laws.EncodeMatchesRow.dfIdle
  | dfTake => exact Laws.EncodeMatchesRow.dfTake
  | regRead rn => exact Laws.EncodeMatchesRow.regRead rn

/-- A word of a row with an `n`-bit operand is the row's match word with its own operand field. -/
theorem or_operand_eq_of_masked {n : Nat} {w m mask : Word} (row : w &&& mask = m) (fits : n ≤ 28)
    (free : m.extractLsb' 0 n = 0#n) (op : opField mask = BitVec.allOnes 4)
    (z : mask.extractLsb' n (28 - n) = BitVec.allOnes (28 - n)) : m ||| (w.extractLsb' 0 n).setWidth 32 = w :=
  or_operand_eq_of_fields fits free (extractLsb'_eq_of_masked row op) (extractLsb'_eq_of_masked row z)

/-- The row of an operation that carries an operand. -/
theorem exists_decode_ok_iff {n : Nat} {w m mask : Word} {make : BitVec n → Instr}
    (row : ∀ x, opcodeRow (make x) = (m, mask)) (word : ∀ x, encode (make x) = m ||| x.setWidth 32)
    (masked : w &&& mask = m → m ||| (w.extractLsb' 0 n).setWidth 32 = w) :
    (∃ x, decode w = .ok (make x)) ↔ w &&& mask = m := by
  constructor
  · rintro ⟨x, accepted⟩
    have inRow := encode_matches_row (make x)
    rwa [Laws.EncodeMatchesRow.Statement, row, (decode_eq_ok_iff w _).mp accepted] at inRow
  · intro inRow
    exact ⟨_, (decode_eq_ok_iff w _).mpr ((word _).trans (masked inRow))⟩

/-- A row whose mask has every bit set is one word. -/
theorem decode_ok_iff_masked {w : Word} (i : Instr) :
    decode w = .ok i ↔ w &&& 0xFFFFFFFF#32 = encode i := by
  rw [decode_eq_ok_iff, show 0xFFFFFFFF#32 = BitVec.allOnes 32 from rfl, BitVec.and_allOnes, eq_comm]

/-- Only a reserved opcode is rejected as one: a defined one is accepted, or rejected for its Z field (R74, R186). -/
theorem decode_eq_reservedOp_iff (w : Word) :
    decode w = .error (.reservedOp w) ↔ (opField w).toNat = 0 ∨ 7 ≤ (opField w).toNat := by
  refine ⟨fun rejected => ?_, decode_reservedOp⟩
  by_contra defined
  have notReserved {zIsZero : Bool} {i : Instr} (row : decode w = requireZero w zIsZero i) : False := by
    rw [row] at rejected
    cases zIsZero <;> cases rejected
  obtain op | op | op | op | op | op := opField_cases defined
  · exact notReserved (decode_op_irEdge op)
  · exact notReserved (decode_op_irDecode op)
  · exact notReserved (decode_op_dfRxbyte op)
  · exact notReserved (decode_op_dfIdle op)
  · exact notReserved (decode_op_dfTake op)
  · exact notReserved (decode_op_regRead op)

/-- A word as a number, by its opcode and the bits below. -/
theorem toNat_eq_fields (w : Word) : w.toNat = (opField w).toNat * 2 ^ 28 + (zFieldN w).toNat := by
  rw [opField_toNat, zFieldN, BitVec.extractLsb'_toNat, Nat.shiftRight_zero, Nat.div_add_mod']

/-- The reserved rows' mask keeps the opcode. -/
theorem and_opMask_toNat (w : Word) : (w &&& 0xF0000000#32).toNat = (opField w).toNat * 2 ^ 28 := by
  have op : opField (w &&& 0xF0000000#32) = opField w := BitVec.extractLsb'_and.trans (BitVec.and_allOnes)
  have low : zFieldN (w &&& 0xF0000000#32) = 0#28 := BitVec.extractLsb'_and.trans (BitVec.and_zero)
  rw [toNat_eq_fields, op, low, BitVec.toNat_zero, Nat.add_zero]

/-- Settles O3: each row's mask leaves an operand its field and no other word, and a rejected opcode is no row's. -/
theorem decoderFollowsOpcodeMap : Obligations.DecoderFollowsOpcodeMap := by
  intro w
  refine ⟨?_, decode_ok_iff_masked .irDecode, ?_, decode_ok_iff_masked .dfIdle, decode_ok_iff_masked .dfTake, ?_, ?_⟩
  · exact exists_decode_ok_iff (fun _ => rfl) (fun _ => rfl)
      fun row => or_operand_eq_of_masked row (by decide) rfl rfl rfl
  · exact exists_decode_ok_iff (fun _ => rfl) (fun _ => rfl)
      fun row => or_operand_eq_of_masked row (by decide) rfl rfl rfl
  · exact exists_decode_ok_iff (fun _ => rfl) (fun _ => rfl)
      fun row => or_operand_eq_of_masked row (by decide) rfl rfl rfl
  · rw [decode_eq_reservedOp_iff, ← BitVec.toNat_inj, BitVec.le_def, and_opMask_toNat]
    simp only [BitVec.toNat_ofNat]
    omega

/-- Settles O6: each of the words is its operation's encoding. -/
theorem sampleWordsDecode : Obligations.SampleWordsDecode :=
  ⟨decodeOfEncodeIsIdentity (.irEdge 27000), decodeOfEncodeIsIdentity (.irEdge 65535),
    decodeOfEncodeIsIdentity .irDecode, decodeOfEncodeIsIdentity (.dfRxbyte 0x5A), decodeOfEncodeIsIdentity .dfIdle,
    decodeOfEncodeIsIdentity .dfTake, decodeOfEncodeIsIdentity (.regRead 8)⟩

/-- Settles O7: the line has one number, below 2 ^ 16, and reads no parameter. -/
theorem assemblerExampleLine : Obligations.AssemblerExampleLine := fun _ => ⟨rfl, rfl⟩

end Sys2Proof

/-! SUPPORT. What an operation reads and writes: an IR operation only the IR sub-block, a DF operation only the DF
sub-block, REG_READ neither (spec/20_memory.md R61), and each the response (spec/10_state.md R41). -/

namespace Sys2Proof.Machine

section
variable {i : Instr} {s s' t : State}

/-! ### Each operation's own sub-block (R61) -/

theorem isIrOp_or_isDfOp_or_regRead (i : Instr) : isIrOp i ∨ isDfOp i ∨ ∃ rn, i = .regRead rn := by
  cases i with
  | irEdge iv => exact .inl (.inl ⟨iv, rfl⟩)
  | irDecode => exact .inl (.inr rfl)
  | dfRxbyte b => exact .inr (.inl (.inl ⟨b, rfl⟩))
  | dfIdle => exact .inr (.inl (.inr (.inl rfl)))
  | dfTake => exact .inr (.inl (.inr (.inr rfl)))
  | regRead rn => exact .inr (.inr ⟨rn, rfl⟩)

theorem not_isDfOp_of_isIrOp (irOp : isIrOp i) : ¬isDfOp i := by
  obtain ⟨iv, rfl⟩ | rfl := irOp <;> rintro (⟨b, other⟩ | other | other) <;> cases other

/-- Where an IR operation completes, it completes in every state with this IR sub-block, and does the same there. -/
theorem exec_of_isIrOp (irOp : isIrOp i) (answer : exec i s = .next t) (same : s'.ir = s.ir) :
    exec i s' = .next ((s'.setIr t.ir).respond t.resp) := by
  have unchanged (r : Response) : s'.respond r = (s'.setIr s.ir).respond r := by
    rw [← same]
    rfl
  obtain ⟨iv, rfl⟩ | rfl := irOp
  · obtain ⟨ready, rfl⟩ | ⟨notReady, inside, rfl⟩ := execIrEdge_cases answer
    · exact (exec_irEdge_ready (same ▸ ready)).trans (congrArg _ (unchanged _))
    · simp [exec, execIrEdge, irEdge, same, notReady, inside]
  · obtain ⟨notReady, rfl⟩ | ⟨ready, r, decoded, rfl⟩ := execIrDecode_cases answer
    · exact (exec_irDecode_notReady (same ▸ notReady)).trans (congrArg _ (unchanged _))
    · rw [exec_irDecode_ready (same ▸ ready) (same ▸ decoded), same]
      rfl

/-- Where a DF operation completes, it completes in every state with this DF sub-block, and does the same there. -/
theorem exec_of_isDfOp (dfOp : isDfOp i) (answer : exec i s = .next t) (same : s'.df = s.df) :
    exec i s' = .next ((s'.setDf t.df).respond t.resp) := by
  obtain ⟨b, rfl⟩ | rfl | rfl := dfOp
  · obtain ⟨df, received, rfl⟩ := execDfRxbyte_cases answer
    exact exec_dfRxbyte_ok (same ▸ received)
  · obtain rfl := Host.Outcome.next.inj ((exec_dfIdle_eq s).symm.trans answer)
    rw [exec_dfIdle_eq, same]
    rfl
  · obtain ⟨ready, rfl⟩ | ⟨notReady, rfl⟩ := execDfTake_cases answer
    · rw [exec_dfTake_ready (same ▸ ready), same]
      rfl
    · rw [exec_dfTake_notReady (same ▸ Bool.eq_false_iff.mp notReady), State.respond_df, ← same]
      rfl

theorem eq_setIr_of_isIrOp (irOp : isIrOp i) (answer : exec i s = .next t) : t = (s.setIr t.ir).respond t.resp :=
  Host.Outcome.next.inj (answer.symm.trans (exec_of_isIrOp irOp answer rfl))

theorem eq_setDf_of_isDfOp (dfOp : isDfOp i) (answer : exec i s = .next t) : t = (s.setDf t.df).respond t.resp :=
  Host.Outcome.next.inj (answer.symm.trans (exec_of_isDfOp dfOp answer rfl))

theorem exec_ir_of_isDfOp (dfOp : isDfOp i) (answer : exec i s = .next t) : t.ir = s.ir :=
  (congrArg State.ir (eq_setDf_of_isDfOp dfOp answer) :)

theorem exec_df_of_isIrOp (irOp : isIrOp i) (answer : exec i s = .next t) : t.df = s.df :=
  exec_df_of_not_isDfOp answer (not_isDfOp_of_isIrOp irOp)

/-- REG_READ writes only the response (R170). -/
theorem eq_respond_of_regRead {rn : RegNum} (answer : exec (.regRead rn) s = .next t) : t = s.respond t.resp := by
  obtain ⟨r, -, rfl⟩ := execRegRead_cases answer
  rfl

/-- R170: a register with this value is read out, zero-extended. -/
theorem exec_regRead_value {rn : RegNum} {r : Half} (value : readWindow s rn = some r) :
    exec (.regRead rn) s = .next (s.respond ⟨true, false, r.setWidth 32⟩) := by
  rw [exec_regRead, execRegRead, value]

/-- No operation writes a port but RESP (R20). -/
theorem exec_writes_blocks_and_resp (answer : exec i s = .next t) :
    t = { s with ir := t.ir, df := t.df, resp := t.resp } := by
  obtain irOp | dfOp | ⟨rn, rfl⟩ := isIrOp_or_isDfOp_or_regRead i
  · rw [exec_df_of_isIrOp irOp answer]
    exact eq_setIr_of_isIrOp irOp answer
  · rw [exec_ir_of_isDfOp dfOp answer]
    exact eq_setDf_of_isDfOp dfOp answer
  · rw [eq_respond_of_regRead answer]
    rfl

end

/-- Settles O50, by the sub-block of each operation. -/
theorem operationsWriteOwnSubBlock : Obligations.OperationsWriteOwnSubBlock := by
  intro i s t answer
  refine ⟨exec_writes_blocks_and_resp answer, fun irOp => exec_df_of_isIrOp irOp answer,
    fun dfOp => exec_ir_of_isDfOp dfOp answer, ?_⟩
  rintro rn rfl
  have onlyResp := eq_respond_of_regRead answer
  exact ⟨(congrArg State.ir onlyResp :), (congrArg State.df onlyResp :)⟩

/-- Settles O49: the first operation of either order leaves the other one's sub-block as it was. -/
theorem irAndDfOperationsCommute : Obligations.IrAndDfOperationsCommute := by
  intro i j s t u irOp dfOp first second
  have dfFirst : exec j s = .next ((s.setDf u.df).respond u.resp) :=
    exec_of_isDfOp dfOp second (exec_df_of_isIrOp irOp first).symm
  have irSecond := exec_of_isIrOp (s' := (s.setDf u.df).respond u.resp) irOp first rfl
  refine ⟨_, _, dfFirst, irSecond, ?_, rfl, rfl⟩
  rw [eq_setDf_of_isDfOp dfOp second, eq_setIr_of_isIrOp irOp first]
  rfl

/-! ### The response (R41) -/

/-- Settles O51, by the response of each operation in each of its cases. -/
theorem responsesFollowTheirOperation : Obligations.ResponsesFollowTheirOperation := by
  intro i s t answer
  cases i with
  | irEdge iv => obtain ⟨-, rfl⟩ | ⟨-, -, rfl⟩ := execIrEdge_cases answer <;> simp [Response.none]
  | irDecode =>
    obtain ⟨-, rfl⟩ | ⟨-, r, decoded, rfl⟩ := execIrDecode_cases answer
    · simp [Response.none]
    · obtain ⟨a, na, c, nc, -, -, -, -, rfl⟩ := decodeFrame_cases decoded
      simp
  | dfRxbyte b =>
    obtain ⟨df, -, rfl⟩ := execDfRxbyte_cases answer
    simp [Response.none]
  | dfIdle =>
    obtain rfl := Host.Outcome.next.inj ((exec_dfIdle_eq s).symm.trans answer)
    simp
  | dfTake => obtain ⟨-, rfl⟩ | ⟨-, rfl⟩ := execDfTake_cases answer <;> simp [Response.none]
  | regRead rn =>
    obtain ⟨r, -, rfl⟩ := execRegRead_cases answer
    simp

/-! ### The buffers (R44) -/

/-- An empty poll neither reads nor writes an entry (R140). -/
theorem dfPollEmpty_with_buf (p : Params) (df : DfState) (buf : Vector (Option Byte) 12) :
    dfPollEmpty p { df with buf := buf } = { dfPollEmpty p df with buf := buf } := by
  by_cases idle : df.phase = .idle
  · have idle' : ({ df with buf := buf } : DfState).phase = .idle := idle
    rw [dfPollEmpty_idle idle, dfPollEmpty_idle idle']
  · have busy' : ({ df with buf := buf } : DfState).phase ≠ .idle := idle
    by_cases exceeded : p.stallLimit < (df.stall + 1#16).toNat
    · rw [dfPollEmpty_timeout idle exceeded, dfPollEmpty_timeout busy' exceeded]
      rfl
    · rw [dfPollEmpty_counts idle exceeded, dfPollEmpty_counts busy' exceeded]
      rfl

/-- Settles O48: none of these operations has an arm that reads or writes an entry. -/
theorem hostDoesNotSeeBuffers : Obligations.HostDoesNotSeeBuffers := by
  intro s t i irBuf dfBuf op answer
  obtain ⟨rn, rfl⟩ | rfl | rfl | ⟨rfl, notReady⟩ := op
  · obtain ⟨r, value, rfl⟩ := execRegRead_cases answer
    exact exec_regRead_value value
  · obtain ⟨ready, rfl⟩ | ⟨notReady, rfl⟩ := execDfTake_cases answer
    · exact exec_dfTake_ready ready
    · exact exec_dfTake_notReady (Bool.eq_false_iff.mp notReady)
  · obtain rfl := Host.Outcome.next.inj ((exec_dfIdle_eq s).symm.trans answer)
    rw [exec_dfIdle_eq, dfPollEmpty_with_buf]
  · obtain rfl := Host.Outcome.next.inj ((exec_irDecode_notReady notReady).symm.trans answer)
    exact exec_irDecode_notReady notReady

end Sys2Proof.Machine

/-! SUPPORT. The step and the two agents (spec/20_memory.md R58, R59), reset and instantiation
(spec/70_reset_and_hazards.md R200, R203), and the invariants of both sub-blocks: every operation and every step keeps
them, and under them every operation completes (spec/10_state.md R27, R37; spec/60_exceptions.md R180). -/

namespace Sys2Proof.Machine

/-! ### The accepted operation (R59, R185) -/

section
variable {s : State} {i : Instr} {w e h : Word} {rest es hs : List Word}

theorem accept_edge_only (edge : s.edgeOps = w :: rest) (host : s.hostOps = []) :
    s.accept = (w, { s with edgeOps := rest }) := by
  simp [State.accept, edge, host]

theorem accept_host_only (edge : s.edgeOps = []) (host : s.hostOps = w :: rest) :
    s.accept = (w, { s with hostOps := rest }) := by
  simp [State.accept, edge, host]

theorem accept_both (edge : s.edgeOps = e :: es) (host : s.hostOps = h :: hs) :
    s.accept = if Config.edgeFirst s.draws then (e, { s with edgeOps := es, draws := s.draws + 1 })
      else (h, { s with hostOps := hs, draws := s.draws + 1 }) := by
  simp [State.accept, edge, host]

theorem step_of_accept {s' : State} (released : s.resetIn = false) (accepted : s.accept = (w, s'))
    (word : decode w = .ok i) : step s = exec i s' := by
  simp [step, released, accepted, word]

end

/-- Settles O8: the one agent's first word is the accepted one. -/
theorem stepRunsPresentedOperation : Obligations.StepRunsPresentedOperation := fun _ _ _ _ released word =>
  ⟨fun edge host => step_of_accept released (accept_edge_only edge host) word,
    fun edge host => step_of_accept released (accept_host_only edge host) word⟩

/-- Settles O9, by the draw. -/
theorem simultaneousOperationsApplyEitherFirst : Obligations.SimultaneousOperationsApplyEitherFirst := by
  intro s e h es hs i j released edge host edgeWord hostWord
  have accepted := accept_both edge host
  cases draw : Config.edgeFirst s.draws with
  | true =>
    rw [draw, if_pos rfl] at accepted
    exact step_of_accept released accepted edgeWord
  | false =>
    rw [draw, if_neg Bool.false_ne_true] at accepted
    exact step_of_accept released accepted hostWord

/-! ### Reset and parameters (R200, R203) -/

/-- A buffer that was never written holds no value (R201). -/
theorem replicate_none_holds_nothing {α : Type} (n i : Nat) (v : α) :
    (Vector.replicate n (none : Option α))[i]? ≠ some (some v) := by
  rw [Vector.getElem?_replicate]
  split_ifs <;> simp

/-- Settles O11: the reset values as they stand, and RESET as one step. -/
theorem resetGivesStatedValues : Obligations.ResetGivesStatedValues := by
  refine ⟨rfl, rfl, rfl, rfl, rfl, rfl, rfl, rfl, rfl, rfl, rfl, rfl, rfl, rfl,
    replicate_none_holds_nothing 33, replicate_none_holds_nothing 12, fun s asserted => ?_⟩
  exact ⟨s.takeReset, if_pos asserted, rfl, rfl, rfl, rfl⟩

/-- Settles O12: the test of instantiation is R6's. -/
theorem illegalParametersAreRefused : Obligations.IllegalParametersAreRefused := fun p =>
  if_congr (Params.legal_iff p) rfl rfl

/-! ### The IR invariant (R27) -/

section
variable {p : Params} {ir : IrState} {iv : Interval}

/-- Outside a capture nothing is asked of the entries. -/
theorem IrInv.of_idle (idle : ir.busy = false) (notReady : ir.ready = false) (clear : ir.idx = 0#6) : IrInv p ir where
  ready_full ready := absurd ready (Bool.eq_false_iff.mp notReady)
  capturing_range busy := absurd busy (Bool.eq_false_iff.mp idle)
  idle_clear _ := ⟨notReady, clear⟩
  leader_entry busy := absurd busy (Bool.eq_false_iff.mp idle)
  data_entries busy := absurd busy (Bool.eq_false_iff.mp idle)

theorem IrInv.startCapture (notReady : ir.ready = false) (leader : classify p iv = .leader) :
    IrInv p (ir.startCapture iv) where
  ready_full ready := absurd ready (Bool.eq_false_iff.mp notReady)
  capturing_range _ _ := ⟨show 1#6 ≤ 1#6 by decide, show 1#6 ≤ 32#6 by decide⟩
  idle_clear := nofun
  leader_entry _ := ⟨iv, buf_set_same ir.buf iv (by decide), leader⟩
  data_entries _ _ low high := absurd high (Nat.not_lt.mpr low)

theorem IrInv.append (inv : IrInv p ir) (notReady : ir.ready = false) (busy : ir.busy = true)
    (data : classify p iv ≠ .leader) : IrInv p (ir.append iv) := by
  obtain ⟨low, high⟩ := inv.capturing_range busy notReady
  rw [IrState.append_eq iv notReady busy high]
  exact {
    ready_full := fun full => ⟨rfl, by have := of_decide_eq_true full; bv_omega⟩
    capturing_range := fun _ room => by have := of_decide_eq_false room; bv_omega
    idle_clear := nofun
    leader_entry := fun _ => by
      rw [buf_set_other ir.buf iv (by bv_omega)]
      exact inv.leader_entry busy
    data_entries := fun _ j first below => by
      obtain rfl | earlier := eq_or_ne j ir.idx.toNat
      · exact ⟨iv, buf_set_same ir.buf iv (by bv_omega), data⟩
      · rw [buf_set_other ir.buf iv earlier.symm]
        exact inv.data_entries busy j first (by bv_omega) }

/-- An edge keeps the invariant while no frame is ready (R102). -/
theorem IrInv.irCapture (inv : IrInv p ir) (notReady : ir.ready = false) (iv : Interval) :
    IrInv p (irCapture p iv ir) := by
  by_cases leader : classify p iv = .leader
  · rw [irCapture_leader leader]
    exact .startCapture notReady leader
  · cases busy : ir.busy with
    | false =>
      rw [irCapture_discard leader busy]
      exact inv
    | true =>
      rw [irCapture_append leader busy]
      exact inv.append notReady busy leader

theorem IrInv.release : IrInv p ir.release := .of_idle rfl rfl rfl

/-- A ready frame's 32 data entries are written. -/
theorem IrInv.data_written (inv : IrInv p ir) (ready : ir.ready = true) :
    ∀ i, 1 ≤ i → i ≤ 32 → ∃ v, ir.buf[i]? = some (some v) := by
  intro i low high
  obtain ⟨busy, full⟩ := inv.ready_full ready
  obtain ⟨v, written, -⟩ := inv.data_entries busy i low (by rw [full]; exact Nat.lt_succ_of_le high)
  exact ⟨v, written⟩

end

/-! ### The DF invariant under DF_IDLE and DF_TAKE (R37) -/

section
variable {p : Params} {df : DfState}

theorem DfInv.dfPollEmpty (inv : DfInv p df) : DfInv p (dfPollEmpty p df) := by
  by_cases idle : df.phase = .idle
  · rw [dfPollEmpty_idle idle]
    exact inv
  · by_cases exceeded : p.stallLimit < (df.stall + 1#16).toNat
    · rw [dfPollEmpty_timeout idle exceeded]
      exact .of_toIdle inv.len_legal
    · rw [dfPollEmpty_counts idle exceeded]
      exact { inv with
        idle_clear := fun h => absurd h idle
        stall_bounded := Nat.le_of_not_lt exceeded }

theorem DfInv.takePair (inv : DfInv p df) : DfInv p df.takePair := { inv with }

theorem DfInv.reset : DfInv p DfState.reset where
  idle_clear _ := ⟨rfl, rfl⟩
  hdr_hi := nofun
  hdr_lo := nofun
  receiving := nofun
  stall_bounded := Nat.zero_le _
  written _ below := absurd below (Nat.not_lt_zero _)
  len_legal := .inl rfl

end

/-! ### The block (R27, R37, R41) -/

theorem Response.wf_none : Response.none.wf := fun _ => rfl

theorem Response.wf_of_data {r : Response} (data : r.v = true) : r.wf := fun none => by simp [data] at none

/-- Settles O13: both sub-blocks are idle. -/
theorem resetMeetsInvariants : Obligations.ResetMeetsInvariants :=
  ⟨.of_idle rfl rfl rfl, .reset, Response.wf_none⟩

section
variable {s t : State} {i : Instr}

/-- Every operation keeps the invariants. -/
theorem Inv.exec (inv : Inv s) (answer : Machine.exec i s = .next t) : Inv t := by
  cases i with
  | irEdge iv =>
    obtain ⟨-, rfl⟩ | ⟨notReady, -, rfl⟩ := execIrEdge_cases answer
    · exact ⟨inv.ir, inv.df, Response.wf_none⟩
    · exact ⟨inv.ir.irCapture notReady iv, inv.df, Response.wf_none⟩
  | irDecode =>
    obtain ⟨-, rfl⟩ | ⟨-, r, decoded, rfl⟩ := execIrDecode_cases answer
    · exact ⟨inv.ir, inv.df, Response.wf_none⟩
    · obtain ⟨a, na, c, nc, -, -, -, -, rfl⟩ := decodeFrame_cases decoded
      exact ⟨.release, inv.df, Response.wf_of_data rfl⟩
  | dfRxbyte b =>
    obtain ⟨df, received, rfl⟩ := execDfRxbyte_cases answer
    exact ⟨inv.ir, inv.df.dfReceive received, Response.wf_none⟩
  | dfIdle =>
    obtain rfl := Host.Outcome.next.inj ((exec_dfIdle_eq s).symm.trans answer)
    exact ⟨inv.ir, inv.df.dfPollEmpty, Response.wf_none⟩
  | dfTake =>
    obtain ⟨-, rfl⟩ | ⟨-, rfl⟩ := execDfTake_cases answer
    · exact ⟨inv.ir, inv.df.takePair, Response.wf_of_data rfl⟩
    · exact ⟨inv.ir, inv.df, Response.wf_none⟩
  | regRead rn =>
    obtain ⟨r, -, rfl⟩ := execRegRead_cases answer
    exact ⟨inv.ir, inv.df, Response.wf_of_data rfl⟩

/-- The invariants do not speak of the ports. -/
theorem Inv.accept (inv : Inv s) : Inv s.accept.2 :=
  ⟨s.accept_ir ▸ inv.ir, s.accept_df ▸ inv.df, s.accept_resp ▸ inv.resp⟩

end

/-- Settles O14: a step is RESET or one operation, and each keeps the invariants. -/
theorem stepKeepsInvariants : Obligations.StepKeepsInvariants := by
  intro s t inv answer
  obtain ⟨-, rfl⟩ | ⟨-, i, -, applied⟩ := step_cases answer
  · exact ⟨resetMeetsInvariants.ir, resetMeetsInvariants.df, resetMeetsInvariants.resp⟩
  · exact inv.accept.exec applied

/-- R180: under the invariants every operation but a read of a reserved register completes. -/
theorem Inv.exec_completes {s : State} {i : Instr} (inv : Inv s) (legal : i.wellFormed = true) :
    ∃ t, Machine.exec i s = .next t := by
  cases i with
  | irEdge iv =>
    cases ready : s.ir.ready with
    | true => exact ⟨_, exec_irEdge_ready ready⟩
    | false => exact ⟨_, exec_irEdge_capture ready fun busy => (inv.ir.capturing_range busy ready).2⟩
  | irDecode =>
    cases ready : s.ir.ready with
    | true =>
      obtain ⟨r, decoded⟩ := decodeFrame_ok (inv.ir.data_written ready)
      exact ⟨_, exec_irDecode_ready ready decoded⟩
    | false => exact ⟨_, exec_irDecode_notReady ready⟩
  | dfRxbyte b =>
    obtain ⟨df, received⟩ := inv.df.dfReceive_ok b
    exact ⟨_, exec_dfRxbyte_ok received⟩
  | dfIdle => exact ⟨_, exec_dfIdle_eq s⟩
  | dfTake =>
    by_cases ready : s.df.ready = true
    · exact ⟨_, exec_dfTake_ready ready⟩
    · exact ⟨_, exec_dfTake_notReady ready⟩
  | regRead rn =>
    have defined : ¬9 ≤ rn.toNat := by
      have := of_decide_eq_true legal
      bv_omega
    obtain ⟨r, value⟩ := Option.ne_none_iff_exists'.mp (mt (readWindow_eq_none_iff s rn).mp defined)
    exact ⟨_, exec_regRead_value value⟩

/-- Settles O15, by induction on the stream. -/
theorem operationStreamsComplete : Obligations.OperationStreamsComplete := by
  intro s ops inv legal
  induction ops generalizing s with
  | nil => exact ⟨s, rfl, inv⟩
  | cons i is ih =>
    obtain ⟨first, others⟩ := List.forall_mem_cons.mp legal
    obtain ⟨u, answer⟩ := inv.exec_completes first
    obtain ⟨t, run, kept⟩ := ih u (inv.exec answer) others
    exact ⟨t, (execAll_cons_next answer).trans run, kept⟩

/-! ### What the invariants say of the registers and of a second operation -/

/-- Settles O30, by the bound of R37. -/
theorem capacityCheckNeverFires : Obligations.CapacityCheckNeverFires := fun _ inv phase =>
  (inv.df.receiving_bounds phase).2.2.2

/-- Settles O47: R27 leaves IR_BUSY and IR_READY three of four values. -/
theorem irStatusReadsThreeValues : Obligations.IrStatusReadsThreeValues := by
  intro s t inv answer
  obtain ⟨r, value, rfl⟩ := execRegRead_cases (rn := 0) answer
  obtain rfl : irStatus s.ir = r := Option.some.inj value
  have fields : irStatus s.ir =
      (BitVec.ofBool (!s.ir.ready) ++ BitVec.ofBool s.ir.busy ++ BitVec.ofBool s.ir.ready).setWidth 16 := rfl
  rw [State.respond_resp, fields]
  cases ready : s.ir.ready with
  | true =>
    rw [(inv.ir.ready_full ready).1]
    exact .inr (.inr rfl)
  | false =>
    cases s.ir.busy with
    | true => exact .inr (.inl rfl)
    | false => exact .inl rfl

/-- Settles O22: the first operation leaves no frame and no pair ready, and a read changes no register. -/
theorem framesAreConsumedOnce : Obligations.FramesAreConsumedOnce := by
  intro s t
  refine ⟨fun decoded => ?_, fun taken => ?_, fun rn read => ?_⟩
  · obtain ⟨notReady, rfl⟩ | ⟨-, r, -, rfl⟩ := execIrDecode_cases decoded
    · exact exec_irDecode_notReady notReady
    · exact exec_irDecode_notReady rfl
  · obtain ⟨-, rfl⟩ | ⟨notReady, rfl⟩ := execDfTake_cases taken
    · exact exec_dfTake_notReady Bool.false_ne_true
    · exact exec_dfTake_notReady (Bool.eq_false_iff.mp notReady)
  · obtain ⟨r, value, rfl⟩ := execRegRead_cases read
    exact exec_regRead_value (s := s.respond _) value

end Sys2Proof.Machine

/-! SUPPORT. Interval classes and the capture and decode of a whole IR frame (spec/40_ir_decoder.md R100 to R108), and
what a buffer holds while a frame is received into it. -/

namespace Sys2Proof.Machine

/-! ### A buffer that is being filled -/

/-- The first entries of the buffer are these values. -/
def Holds {α : Type} {n : Nat} (buf : Vector (Option α) n) (vs : List α) : Prop :=
  ∀ (j : Nat) (v : α), vs[j]? = some v → buf[j]? = some (some v)

section
variable {α : Type} {n : Nat} {buf : Vector (Option α) n} {vs : List α}

theorem Holds.nil : Holds buf [] := nofun

/-- Writing the next entry adds its value. -/
theorem Holds.append (holds : Holds buf vs) (room : vs.length < n) (v : α) :
    Holds (buf.setIfInBounds vs.length (some v)) (vs ++ [v]) := by
  intro j u entry
  obtain earlier | last := Nat.lt_or_ge j vs.length
  · rw [buf_set_other buf v (by omega)]
    exact holds j u (List.getElem?_append_left earlier ▸ entry)
  · rw [List.getElem?_append_right last, List.getElem?_singleton] at entry
    split_ifs at entry with offset
    obtain rfl : v = u := Option.some.inj entry
    obtain rfl : j = vs.length := by omega
    exact buf_set_same buf v room

theorem Holds.written (holds : Holds buf vs) {j : Nat} (inside : j < vs.length) :
    buf[j]? = some (some vs[j]) :=
  holds j _ (List.getElem?_eq_getElem inside)

end

/-! ### Interval classes (R100, R101) -/

section
variable {p : Params} {v : Interval}

theorem classify_eq_leader_iff : classify p v = .leader ↔ inLeader p v = true := by
  unfold classify
  split_ifs with leader <;> simp [leader]

/-- The windows are disjoint, so an interval of the logic-0 window is of class ZERO and no other. -/
theorem classify_eq_zero_iff (legal : p.legal = true) : classify p v = .zero ↔ inZero p v = true := by
  obtain ⟨-, -, -, -, leaderZero, oneZero, -⟩ := (Params.legal_iff p).mp legal
  have apart : inZero p v = true → ¬inLeader p v = true ∧ ¬inOne p v = true := by
    simp only [inZero, inLeader, inOne, inWindow_iff]
    omega
  constructor
  · intro zero
    unfold classify at zero
    split_ifs at zero with leader one inside
    exact inside
  · intro inside
    obtain ⟨notLeader, notOne⟩ := apart inside
    rw [classify, if_neg notLeader, if_neg notOne, if_pos inside]

theorem classify_eq_none_iff :
    classify p v = .none ↔ ¬inLeader p v = true ∧ ¬inOne p v = true ∧ ¬inZero p v = true := by
  unfold classify
  split_ifs with leader one zero <;> simp [*]

end

/-- Settles O16: one equivalence per class. -/
theorem intervalClassMatchesWindow : Obligations.IntervalClassMatchesWindow := by
  intro v
  refine ⟨classify_eq_leader_iff.trans (inWindow_iff _ v),
    (classify_eq_one_iff theParams_legal v).trans (inWindow_iff _ v),
    (classify_eq_zero_iff theParams_legal).trans (inWindow_iff _ v), ?_⟩
  rw [classify_eq_none_iff, inLeader, inOne, inZero, inWindow_iff, inWindow_iff, inWindow_iff]

/-- Settles O17: 65535 is the largest interval. -/
theorem presentedIntervalSaturates : Obligations.PresentedIntervalSaturates := by
  intro elapsed
  rw [presentedInterval, BitVec.toNat_ofNat]
  split_ifs <;> omega

/-! ### Edges around IR_DECODE (R185, R206) -/

/-- Settles O19, by induction on the edges after the first. -/
theorem edgesIgnoredWhileReady : Obligations.EdgesIgnoredWhileReady := by
  intro s iv ivs ready
  induction ivs generalizing s iv with
  | nil => exact execAll_cons_next (exec_irEdge_ready ready)
  | cons next ivs ih =>
    rw [List.map_cons, execAll_cons_next (exec_irEdge_ready ready)]
    exact ih (s.respond Response.none) next ready

/-- Settles O10: the lost edge leaves the frame to the decode; after the decode the edge meets an idle decoder. -/
theorem edgeAgainstDecodeBothOrders : Obligations.EdgeAgainstDecodeBothOrders := by
  intro s iv inv ready
  obtain ⟨r, decoded⟩ := decodeFrame_ok (inv.ir.data_written ready)
  obtain ⟨a, na, c, nc, -, -, -, -, data⟩ := decodeFrame_cases decoded
  have decodes : exec .irDecode s = .next ((s.setIr s.ir.release).respond r) := exec_irDecode_ready ready decoded
  have edgeFirst : execAll [.irEdge iv, .irDecode] s = .next ((s.setIr s.ir.release).respond r) := by
    rw [execAll_cons_next (exec_irEdge_ready ready)]
    exact execAll_cons_next (exec_irDecode_ready ready decoded)
  have decodeFirst := (execAll_cons_next (is := [.irEdge iv]) decodes).trans
    (execAll_cons_next (exec_irEdge_capture rfl (fun busy => nomatch busy)))
  refine ⟨_, _, _, edgeFirst, decodes, decodeFirst, rfl, congrArg Response.v data, rfl, rfl, rfl,
    fun leader => ?_, fun other => irCapture_discard other rfl⟩
  rw [State.respond_ir, State.setIr_ir, irCapture_leader leader]
  exact ⟨rfl, rfl, buf_set_same _ iv (by decide)⟩

/-! ### The capture of a frame (R102, R108) -/

/-- A capture, or a ready frame, whose entries are these intervals. -/
structure Captured (vs : List Interval) (ir : IrState) : Prop where
  busy : ir.busy = true
  ready : ir.ready = decide (vs.length = 33)
  count : ir.idx.toNat = vs.length
  entries : Holds ir.buf vs

section
variable {ir : IrState} {vs : List Interval}

theorem Captured.startCapture (iv : Interval) (notReady : ir.ready = false) : Captured [iv] (ir.startCapture iv) where
  busy := rfl
  ready := notReady
  count := rfl
  entries := Holds.nil.append (by decide) iv

theorem Captured.append (captured : Captured vs ir) (room : vs.length < 33) (iv : Interval) :
    Captured (vs ++ [iv]) (ir.append iv) := by
  have notReady : ir.ready = false := captured.ready.trans (decide_eq_false (Nat.ne_of_lt room))
  have count := captured.count
  rw [IrState.append_eq iv notReady captured.busy (by bv_omega)]
  have length : (vs ++ [iv]).length = vs.length + 1 := List.length_append
  exact {
    busy := rfl
    ready := by simp only [length, count]
    count := by
      rw [length]
      bv_omega
    entries := by
      rw [count]
      exact captured.entries.append room iv }

end

/-- Intervals of no leader class are recorded one after the other (R102). -/
theorem execAll_data_edges {s : State} {vs ivs : List Interval} (captured : Captured vs s.ir)
    (room : vs.length + ivs.length ≤ 33) (data : ∀ v ∈ ivs, classify theParams v ≠ .leader) :
    ∃ t, execAll (ivs.map .irEdge) s = .next t ∧ Captured (vs ++ ivs) t.ir ∧ t.df = s.df := by
  induction ivs generalizing s vs with
  | nil => exact ⟨s, rfl, vs.append_nil.symm ▸ captured, rfl⟩
  | cons iv ivs ih =>
    rw [List.length_cons] at room
    obtain ⟨first, others⟩ := List.forall_mem_cons.mp data
    have notReady : s.ir.ready = false := captured.ready.trans (decide_eq_false (by omega))
    have count := captured.count
    have edge := exec_irEdge_capture (iv := iv) notReady fun _ => by bv_omega
    rw [irCapture_append first captured.busy] at edge
    obtain ⟨t, run, kept, df⟩ := ih (s := (s.setIr (s.ir.append iv)).respond Response.none)
      (captured.append (by omega) iv) (by rw [List.length_append, List.length_singleton]; omega) others
    rw [List.append_assoc] at kept
    exact ⟨t, (execAll_cons_next edge).trans run, kept, df⟩

/-- A leader starts a capture, whatever the block was doing (R102). -/
theorem exec_irEdge_leader {s : State} {lead : Interval} (notReady : s.ir.ready = false)
    (leader : classify theParams lead = .leader) :
    exec (.irEdge lead) s = .next ((s.setIr (s.ir.startCapture lead)).respond Response.none) := by
  have inside : irAppendOutside theParams lead s.ir = false := by simp [irAppendOutside, leader]
  simp [exec, execIrEdge, irEdge, notReady, inside, irCapture_leader leader]

/-- A leader and 32 data intervals are a ready frame. -/
theorem execAll_capture_frame {s : State} {lead : Interval} {ivs : List Interval} (notReady : s.ir.ready = false)
    (leader : classify theParams lead = .leader) (length : ivs.length = 32)
    (data : ∀ v ∈ ivs, classify theParams v ≠ .leader) :
    ∃ t, execAll (.irEdge lead :: ivs.map .irEdge) s = .next t ∧ Captured (lead :: ivs) t.ir ∧ t.df = s.df := by
  rw [execAll_cons_next (exec_irEdge_leader notReady leader)]
  exact execAll_data_edges (vs := [lead]) (.startCapture lead notReady) (by rw [length]; exact Nat.le_refl 33) data

/-! ### The decode of a frame (R103 to R106) -/

section
variable {p : Params} {ir : IrState} {r : Response}

/-- Bit 31 - j of the response is the logic-1 test of data interval j, entry 1 + j (R103, R104). -/
theorem decodeFrame_getLsbD (decoded : decodeFrame p ir = .ok r) {j : Nat} {v : Interval} (place : j < 32)
    (entry : ir.buf[1 + j]? = some (some v)) :
    r.d.getLsbD (31 - j) = decide (p.one.min ≤ v.toNat ∧ v.toNat ≤ p.one.max) := by
  obtain ⟨a, na, c, nc, first, second, third, fourth, rfl⟩ := decodeFrame_cases decoded
  have bit {k : Nat} {y : Byte} (byte : decodeByte p ir k = .ok y) (low : 8 * k ≤ j) (high : j < 8 * k + 8) :
      y.getLsbD (7 - (j - 8 * k)) = decide (p.one.min ≤ v.toNat ∧ v.toNat ≤ p.one.max) :=
    decodeByte_getLsbD byte (by omega) (by rwa [show 1 + 8 * k + (j - 8 * k) = 1 + j by omega])
  rw [pack4_getLsbD]
  split_ifs
  · rw [show 31 - j = 7 - (j - 8 * 3) by omega]
    exact bit fourth (by omega) (by omega)
  · rw [show 31 - j - 8 = 7 - (j - 8 * 2) by omega]
    exact bit third (by omega) (by omega)
  · rw [show 31 - j - 16 = 7 - (j - 8 * 1) by omega]
    exact bit second (by omega) (by omega)
  · rw [show 31 - j - 24 = 7 - (j - 8 * 0) by omega]
    exact bit first (by omega) (by omega)

end

theorem pack4_third (a b c d : Byte) : (a ++ b ++ c ++ d : Word).extractLsb' 8 8 = c := by
  refine BitVec.eq_of_getLsbD_eq fun k inside => ?_
  rw [BitVec.getLsbD_extractLsb', pack4_getLsbD, if_neg (by omega), if_pos (by omega), decide_eq_true inside,
    Bool.true_and, Nat.add_sub_cancel_left]

theorem pack4_fourth (a b c d : Byte) : (a ++ b ++ c ++ d : Word).extractLsb' 0 8 = d := by
  refine BitVec.eq_of_getLsbD_eq fun k inside => ?_
  rw [BitVec.getLsbD_extractLsb', pack4_getLsbD, if_pos (by omega), decide_eq_true inside, Bool.true_and, Nat.zero_add]

/-- Settles O21: the command bytes are those of entries 17 to 32. -/
theorem commandCheckIgnoresAddress : Obligations.CommandCheckIgnoresAddress := by
  intro s t s' t' ready ready' same answer answer'
  have sameByte (k : Nat) (low : 2 ≤ k) (high : k < 4) :
      decodeByte theParams s.ir k = decodeByte theParams s'.ir k :=
    decodeBits_congr fun j above below => same j (by omega) (by omega)
  obtain ⟨notReady, -⟩ | ⟨-, r, decoded, rfl⟩ := execIrDecode_cases answer
  · rw [ready] at notReady
    cases notReady
  obtain ⟨notReady, -⟩ | ⟨-, r', decoded', rfl⟩ := execIrDecode_cases answer'
  · rw [ready'] at notReady
    cases notReady
  obtain ⟨a, na, c, nc, -, -, third, fourth, rfl⟩ := decodeFrame_cases decoded
  obtain ⟨a', na', c', nc', -, -, third', fourth', rfl⟩ := decodeFrame_cases decoded'
  obtain rfl : c = c' := Except.ok.inj (third.symm.trans ((sameByte 2 (by decide) (by decide)).trans third'))
  obtain rfl : nc = nc' := Except.ok.inj (fourth.symm.trans ((sameByte 3 (by decide) (by decide)).trans fourth'))
  rfl

/-- Settles O23: the captured frame is decoded and released. -/
theorem capturedFrameDecodesMsbFirst : Obligations.CapturedFrameDecodesMsbFirst := by
  intro s lead ivs notReady leader length data
  obtain ⟨u, capture, captured, df⟩ := execAll_capture_frame notReady leader length data
  have entry (j : Nat) (v : Interval) (place : ivs[j]? = some v) : u.ir.buf[1 + j]? = some (some v) :=
    captured.entries (1 + j) v (by rwa [Nat.add_comm, List.getElem?_cons_succ])
  have written : ∀ i, 1 ≤ i → i ≤ 32 → ∃ v, u.ir.buf[i]? = some (some v) := fun i low high =>
    ⟨_, captured.entries.written (by rw [List.length_cons, length]; omega)⟩
  have ready : u.ir.ready = true := captured.ready.trans (decide_eq_true (by rw [List.length_cons, length]))
  obtain ⟨r, decoded⟩ := decodeFrame_ok (p := theParams) written
  have run : execAll (.irEdge lead :: ivs.map .irEdge ++ [.irDecode]) s = .next ((u.setIr u.ir.release).respond r) :=
    (execAll_append capture).trans (execAll_cons_next (exec_irDecode_ready ready decoded))
  refine ⟨_, run, ?_, fun j v place => ?_, ?_, rfl, rfl, rfl, df⟩
  · obtain ⟨a, na, c, nc, -, -, -, -, rfl⟩ := decodeFrame_cases decoded
    rfl
  · have inside : j < 32 := length ▸ (List.getElem?_eq_some_iff.mp place).1
    rw [State.respond_resp, decodeFrame_getLsbD decoded inside (entry j v place)]
    exact decide_eq_decide.mpr (((classify_eq_one_iff theParams_legal v).trans (inWindow_iff _ v)).symm)
  · obtain ⟨a, na, c, nc, -, -, -, -, rfl⟩ := decodeFrame_cases decoded
    rw [State.respond_resp, pack4_third, pack4_fourth]
    rfl

/-! ### IR_FRAME (R80) -/

/-- The data intervals of a frame are its 32 bits, most significant first. -/
theorem byteIntervals_append (n : Nominals) (a na c nc : Byte) :
    byteIntervals n a ++ byteIntervals n na ++ byteIntervals n c ++ byteIntervals n nc =
      (List.range 32).map fun j => bitInterval n ((a ++ na ++ c ++ nc : Word).getLsbD (31 - j)) := by
  simp only [pack4_getLsbD]
  rfl

/-- A nominal data interval is of the class of its bit. -/
theorem classify_bitInterval {p : Params} {n : Nominals} (legal : p.legal = true)
    (nominals : nominalsLegal p n = true) (bit : Bool) :
    classify p (bitInterval n bit) = if bit then .one else .zero := by
  simp only [nominalsLegal, Bool.and_eq_true] at nominals
  obtain ⟨⟨-, one⟩, zero⟩ := nominals
  cases bit with
  | true => exact (classify_eq_one_iff legal _).mpr one
  | false => exact (classify_eq_zero_iff legal).mpr zero

theorem classify_leader_nominal {p : Params} {n : Nominals} (nominals : nominalsLegal p n = true) :
    classify p n.leader = .leader := by
  simp only [nominalsLegal, Bool.and_eq_true] at nominals
  exact classify_eq_leader_iff.mpr nominals.1.1

/-- Settles O24: the response's bits are those of the four bytes. -/
theorem irFrameRoundTrip : Obligations.IrFrameRoundTrip := by
  intro s n a na c nc notReady nominals
  have bitClass := classify_bitInterval theParams_legal nominals
  have isOne (bit : Bool) : decide (classify theParams (bitInterval n bit) = .one) = bit := by
    rw [bitClass]
    cases bit <;> rfl
  rw [irFrame, byteIntervals_append]
  obtain ⟨t, run, data, bits, ok, -⟩ := capturedFrameDecodesMsbFirst s n.leader
    ((List.range 32).map fun j => bitInterval n ((a ++ na ++ c ++ nc : Word).getLsbD (31 - j))) notReady
    (classify_leader_nominal nominals) (by simp) fun v interval => by
      obtain ⟨j, -, rfl⟩ := List.mem_map.mp interval
      rw [bitClass]
      split_ifs <;> nofun
  have bytes : t.resp.d = a ++ na ++ c ++ nc := by
    refine BitVec.eq_of_getLsbD_eq fun i inside => ?_
    have bit := bits (31 - i) _ (by rw [List.getElem?_map, List.getElem?_range (by omega)]; rfl)
    rwa [isOne, show 31 - (31 - i) = i by omega] at bit
  rw [bytes, pack4_third, pack4_fourth] at ok
  refine ⟨t, run, ?_⟩
  rw [← data, ← ok, ← bytes]

end Sys2Proof.Machine

/-! SUPPORT. What changes the ready outputs, the latches and the error count (spec/10_state.md R33 to R36,
spec/60_exceptions.md R184), runs of empty polls, and the way of the bytes to IDLE
(spec/41_display_framer.md R136, R140, R142). -/

namespace Sys2Proof.Machine

/-! ### The pair and DF_READY (R35, R36, R138) -/

/-- DF_READY and both latches are the same. -/
structure SamePair (df df' : DfState) : Prop where
  ready : df'.ready = df.ready
  addr : df'.addr = df.addr
  value : df'.value = df.value

theorem SamePair.refl (df : DfState) : SamePair df df := ⟨rfl, rfl, rfl⟩

theorem SamePair.trans {a b c : DfState} (first : SamePair a b) (second : SamePair b c) : SamePair a c :=
  ⟨second.ready.trans first.ready, second.addr.trans first.addr, second.value.trans first.value⟩

/-- The byte has latched the pair: it was the last one of a frame of at least 6 declared bytes. -/
structure Latched (df df' : DfState) : Prop where
  phase : df.phase = .receiving
  payload : 6 ≤ df.len.toNat
  last : 3 + df.len.toNat ≤ df.idx.toNat + 1
  idle : df'.phase = .idle
  ready : df'.ready = true

section
variable {p : Params} {b : Byte} {df df' : DfState}

theorem samePair_clearStall : SamePair df df.clearStall := ⟨rfl, rfl, rfl⟩

theorem samePair_rxIdle : SamePair df (rxIdle b df) := by
  unfold rxIdle
  split_ifs <;> exact ⟨rfl, rfl, rfl⟩

theorem samePair_rxGotHdrHi : SamePair df (rxGotHdrHi b df) := by
  unfold rxGotHdrHi
  split_ifs <;> exact ⟨rfl, rfl, rfl⟩

theorem samePair_rxGotHdrLo : SamePair df (rxGotHdrLo p b df) := by
  unfold rxGotHdrLo
  split_ifs <;> exact ⟨rfl, rfl, rfl⟩

/-- R138: a byte in RECEIVING leaves the pair, or latches it as the last one of its frame. -/
theorem samePair_or_latched_of_rxReceiving (phase : df.phase = .receiving)
    (received : rxReceiving p b df = .ok df') : SamePair df df' ∨ Latched df df' := by
  obtain ⟨-, rfl⟩ | ⟨-, -, rfl⟩ | ⟨inside, last, done, completed, rfl⟩ := rxReceiving_cases received
  · exact .inl ⟨rfl, rfl, rfl⟩
  · exact .inl ⟨rfl, rfl, rfl⟩
  · obtain rfl | ⟨payload, _, _, _, _, _, -, -, -, -, -, -, rfl⟩ := complete_cases completed
    · exact .inl ⟨rfl, rfl, rfl⟩
    · rw [DfState.append_idx_toNat inside] at last
      exact .inr ⟨phase, payload, last, rfl, rfl⟩

theorem samePair_or_latched_of_dfReceive (received : dfReceive p b df = .ok df') :
    SamePair df df' ∨ Latched df df' := by
  obtain ⟨-, rfl⟩ | ⟨-, rfl⟩ | ⟨-, rfl⟩ | ⟨phase, arm⟩ := dfReceive_cases received
  · exact .inl (samePair_clearStall.trans samePair_rxIdle)
  · exact .inl (samePair_clearStall.trans samePair_rxGotHdrHi)
  · exact .inl (samePair_clearStall.trans samePair_rxGotHdrLo)
  · obtain same | latched := samePair_or_latched_of_rxReceiving (df := df.clearStall) phase arm
    · exact .inl (samePair_clearStall.trans same)
    · exact .inr ⟨latched.phase, latched.payload, latched.last, latched.idle, latched.ready⟩

theorem samePair_dfPollEmpty : SamePair df (dfPollEmpty p df) := by
  unfold dfPollEmpty
  split_ifs <;> exact ⟨rfl, rfl, rfl⟩

end

/-- Only DF_RXBYTE at a completion and DF_TAKE touch the pair or DF_READY. -/
theorem exec_pair_cases {i : Instr} {s t : State} (answer : exec i s = .next t) :
    SamePair s.df t.df ∨ (i = .dfTake ∧ t.df = s.df.takePair) ∨ ((∃ b, i = .dfRxbyte b) ∧ Latched s.df t.df) := by
  by_cases dfOp : isDfOp i
  · obtain ⟨b, rfl⟩ | rfl | rfl := dfOp
    · obtain ⟨df, received, rfl⟩ := execDfRxbyte_cases answer
      exact (samePair_or_latched_of_dfReceive received).imp_right fun latched => .inr ⟨⟨b, rfl⟩, latched⟩
    · obtain rfl := Host.Outcome.next.inj ((exec_dfIdle_eq s).symm.trans answer)
      exact .inl samePair_dfPollEmpty
    · obtain ⟨-, rfl⟩ | ⟨-, rfl⟩ := execDfTake_cases answer
      · exact .inr (.inl ⟨rfl, rfl⟩)
      · exact .inl (.refl s.df)
  · rw [exec_df_of_not_isDfOp answer dfOp]
    exact .inl (.refl s.df)

/-- Settles O44: an operation that changes a latch is the completing byte. -/
theorem latchesChangeOnlyAtCompletion : Obligations.LatchesChangeOnlyAtCompletion := by
  intro i s t answer changed
  obtain same | ⟨-, taken⟩ | ⟨byte, latched⟩ := exec_pair_cases answer
  · exact absurd changed (by simp [same.addr, same.value])
  · exact absurd changed (by simp [taken])
  · exact ⟨latched.ready, latched.phase, latched.idle, latched.payload, byte⟩

/-! ### The ready outputs (R184) -/

section
variable {i : Instr} {s t : State}

/-- IR_READY rises with the 33rd entry of a capture (R102). -/
theorem irCapture_ready_rises {p : Params} {iv : Interval} {ir : IrState} (low : ir.ready = false)
    (high : (irCapture p iv ir).ready = true) :
    ir.busy = true ∧ ir.idx = 32#6 ∧ (irCapture p iv ir).idx = 33#6 := by
  by_cases leader : classify p iv = .leader
  · rw [irCapture_leader leader, IrState.startCapture_ready, low] at high
    cases high
  · cases busy : ir.busy with
    | false =>
      rw [irCapture_discard leader busy, low] at high
      cases high
    | true =>
      rw [irCapture_append leader busy] at high ⊢
      rw [IrState.append_ready, low, Bool.false_or, irCap_eq] at high
      have full := eq_of_beq high
      exact ⟨rfl, by bv_omega, by rw [IrState.append_idx]; bv_omega⟩

/-- An operation leaves the IR sub-block, releases a ready frame, or is a step of a capture. -/
theorem exec_ir_cases (answer : exec i s = .next t) :
    t.ir = s.ir ∨ (i = .irDecode ∧ t.ir = s.ir.release) ∨
      ∃ iv, i = .irEdge iv ∧ s.ir.ready = false ∧ t.ir = irCapture theParams iv s.ir := by
  obtain (⟨iv, rfl⟩ | rfl) | dfOp | ⟨rn, rfl⟩ := isIrOp_or_isDfOp_or_regRead i
  · obtain ⟨-, rfl⟩ | ⟨notReady, -, rfl⟩ := execIrEdge_cases answer
    · exact .inl rfl
    · exact .inr (.inr ⟨iv, rfl, notReady, rfl⟩)
  · obtain ⟨-, rfl⟩ | ⟨-, r, -, rfl⟩ := execIrDecode_cases answer
    · exact .inl rfl
    · exact .inr (.inl ⟨rfl, rfl⟩)
  · exact .inl (exec_ir_of_isDfOp dfOp answer)
  · exact .inl (congrArg State.ir (eq_respond_of_regRead answer) :)

end

/-- Settles O52, by what raises and what clears each ready flag. -/
theorem readyOutputsRiseAndFall : Obligations.ReadyOutputsRiseAndFall := by
  intro i s t answer
  refine ⟨fun low high => ?_, fun high low => ?_, fun low high => ?_, fun high low => ?_, rfl⟩
  · obtain same | ⟨-, released⟩ | ⟨iv, rfl, -, captured⟩ := exec_ir_cases answer
    · exact absurd (high.symm.trans ((congrArg IrState.ready same).trans low)) nofun
    · exact absurd (high.symm.trans (congrArg IrState.ready released)) nofun
    · obtain ⟨busy, last, full⟩ := irCapture_ready_rises low ((congrArg IrState.ready captured).symm.trans high)
      exact ⟨iv, rfl, busy, last, captured ▸ full⟩
  · obtain same | ⟨rfl, -⟩ | ⟨iv, -, notReady, -⟩ := exec_ir_cases answer
    · exact absurd (high.symm.trans ((congrArg IrState.ready same).symm.trans low)) nofun
    · rfl
    · exact absurd (high.symm.trans notReady) nofun
  · obtain same | ⟨-, taken⟩ | ⟨⟨b, rfl⟩, latched⟩ := exec_pair_cases answer
    · exact absurd (high.symm.trans (same.ready.trans low)) nofun
    · exact absurd (high.symm.trans (congrArg DfState.ready taken)) nofun
    · exact ⟨b, rfl, latched.phase⟩
  · obtain same | ⟨rfl, -⟩ | ⟨-, latched⟩ := exec_pair_cases answer
    · exact absurd (high.symm.trans (same.ready.symm.trans low)) nofun
    · rfl
    · exact absurd (latched.ready.symm.trans low) nofun

/-! ### The error count (R33) -/

section
variable {p : Params} {b : Byte} {df df' : DfState}

theorem le_errSucc_saturate (e : BitVec 8) : e ≤ errSucc .saturate e := by
  rw [BitVec.le_def, errSucc_saturate_toNat]
  omega

/-- A byte counts one error or none. -/
theorem dfReceive_err_cases (received : dfReceive p b df = .ok df') :
    df'.err = df.err ∨ df'.err = errSucc p.errMode df.err := by
  by_cases illegal : df.phase = .gotHdrLo ∧ ¬(3 ≤ b.toNat ∧ b.toNat ≤ 9)
  · rw [dfReceive_gotHdrLo illegal.1, rxGotHdrLo_illegal illegal.2] at received
    obtain rfl := Except.ok.inj received
    exact .inr rfl
  · by_cases full : df.phase = .receiving ∧ 12 ≤ df.idx.toNat
    · rw [dfReceive_receiving full.1, rxReceiving_full (df := df.clearStall) full.2] at received
      obtain rfl := Except.ok.inj received
      exact .inr rfl
    · exact .inl (dfReceive_err received (fun phase => by_contra fun length => illegal ⟨phase, length⟩)
        fun phase atCapacity => full ⟨phase, atCapacity⟩)

theorem dfPollEmpty_err_cases (p : Params) (df : DfState) :
    (dfPollEmpty p df).err = df.err ∨ (dfPollEmpty p df).err = errSucc p.errMode df.err := by
  by_cases timeout : df.phase ≠ .idle ∧ p.stallLimit < (df.stall + 1#16).toNat
  · rw [dfPollEmpty_timeout timeout.1 timeout.2]
    exact .inr rfl
  · exact .inl (dfPollEmpty_err fun busy exceeded => timeout ⟨busy, exceeded⟩)

theorem le_err_of_saturate (saturate : p.errMode = .saturate)
    (counted : df'.err = df.err ∨ df'.err = errSucc p.errMode df.err) : df.err ≤ df'.err := by
  obtain same | more := counted
  · rw [same]
    exact BitVec.le_refl _
  · rw [more, saturate]
    exact le_errSucc_saturate df.err

end

/-- Settles O33: each of these operations counts one error or none. -/
theorem saturatingErrorCountNeverFalls : Obligations.SaturatingErrorCountNeverFalls := by
  intro p s t saturate
  refine ⟨fun b answer => ?_, fun answer => ?_, fun answer => ?_⟩
  · unfold dfRxbyte at answer
    split at answer
    · obtain rfl := Host.Outcome.next.inj answer
      exact le_err_of_saturate saturate (dfReceive_err_cases ‹_›)
    · cases answer
  · obtain rfl := Host.Outcome.next.inj answer
    exact le_err_of_saturate saturate (dfPollEmpty_err_cases p s.df)
  · obtain ⟨-, rfl⟩ | ⟨-, rfl⟩ := execDfTake_cases answer <;> rfl

/-! ### Runs of empty polls (R140, R142) -/

section
variable {p : Params} {df : DfState}

theorem dfPollEmpty_iterate_idle (idle : df.phase = .idle) (n : Nat) : (dfPollEmpty p)^[n] df = df :=
  Function.iterate_fixed (dfPollEmpty_idle idle) n

/-- Up to STALL_LIMIT empty polls only count. -/
theorem dfPollEmpty_iterate_within (bound : p.stallLimit ≤ 65534) (busy : df.phase ≠ .idle) {n : Nat}
    (within : df.stall.toNat + n ≤ p.stallLimit) :
    (dfPollEmpty p)^[n] df = { df with stall := df.stall + BitVec.ofNat 16 n } := by
  induction n generalizing df with
  | zero => simp
  | succ n ih =>
    have next : (df.stall + 1#16).toNat = df.stall.toNat + 1 := by bv_omega
    rw [Function.iterate_succ_apply, dfPollEmpty_counts busy (by omega),
      ih (df := df.countStall) busy (by rw [DfState.countStall_stall]; omega), DfState.countStall_stall,
      BitVec.add_assoc, ← BitVec.ofNat_add, Nat.add_comm 1 n]
    rfl

/-- One poll more than the count has room for drops the frame with one error, and later polls find the framer idle. -/
theorem dfPollEmpty_iterate_timeout (bound : p.stallLimit ≤ 65534) (busy : df.phase ≠ .idle) {n : Nat}
    (counted : df.stall.toNat ≤ p.stallLimit) (exceeded : p.stallLimit < df.stall.toNat + n) :
    (dfPollEmpty p)^[n] df = (df.errInc p).toIdle := by
  induction n generalizing df with
  | zero => exact absurd exceeded (Nat.not_lt.mpr counted)
  | succ n ih =>
    have next : (df.stall + 1#16).toNat = df.stall.toNat + 1 := by bv_omega
    rw [Function.iterate_succ_apply]
    by_cases last : p.stallLimit < (df.stall + 1#16).toNat
    · rw [dfPollEmpty_timeout busy last, dfPollEmpty_iterate_idle rfl]
      rfl
    · rw [dfPollEmpty_counts busy last,
        ih (df := df.countStall) busy (Nat.le_of_not_lt last) (by rw [DfState.countStall_stall]; omega)]
      rfl

end

/-- Consecutive DF_IDLE are consecutive empty polls. -/
theorem execAll_replicate_dfIdle (n : Nat) (s : State) :
    execAll (List.replicate n .dfIdle) s = .next { s with
      resp := if n = 0 then s.resp else ⟨false, false, 0#32⟩
      df := (dfPollEmpty theParams)^[n] s.df } := by
  induction n generalizing s with
  | zero => rfl
  | succ n ih =>
    rw [List.replicate_succ, execAll_cons_next (exec_dfIdle_eq s), ih]
    simp

theorem theParams_stallLimit_le : theParams.stallLimit ≤ 65534 :=
  ((Params.legal_iff theParams).mp theParams_legal).2.2.2.2.2.2

/-- Settles O35, by the number of empty polls. -/
theorem stalledFrameCountsOneError : Obligations.StalledFrameCountsOneError := by
  intro s n busy clear
  have zero : s.df.stall.toNat = 0 := by rw [clear]; rfl
  refine ⟨fun within => ?_, fun exceeded => ?_⟩
  · rw [execAll_replicate_dfIdle, dfPollEmpty_iterate_within theParams_stallLimit_le busy (by omega), clear,
      BitVec.zero_add]
  · rw [execAll_replicate_dfIdle, dfPollEmpty_iterate_timeout theParams_stallLimit_le busy (by omega) (by omega),
      if_neg (by omega)]
    rfl

/-- Settles O36: the stall count of R37 leaves no room for STALL_LIMIT + 1 more. -/
theorem emptyPollsReachIdle : Obligations.EmptyPollsReachIdle := by
  intro s inv busy
  refine ⟨_, execAll_replicate_dfIdle _ s, ?_⟩
  rw [dfPollEmpty_iterate_timeout theParams_stallLimit_le busy inv.df.stall_bounded (by omega)]
  rfl

/-! ### The way of the bytes to IDLE (R142) -/

section
variable {p : Params} {b : Byte} {df df' : DfState}

/-- R136: an append below the declared length only appends. -/
theorem rxReceiving_appends (inside : df.idx.toNat < 12) (due : df.idx.toNat + 1 < 3 + df.len.toNat) :
    rxReceiving p b df = .ok (df.append b) := by
  rw [rxReceiving, if_neg (Nat.not_le.mpr inside), DfState.append_idx_toNat inside, if_neg (Nat.not_le.mpr due)]

/-- A byte in RECEIVING ends the frame or is one more of it. -/
theorem rxReceiving_idle_or_next (received : rxReceiving p b df = .ok df') :
    df'.phase = .idle ∨
      (df'.phase = df.phase ∧ df'.len = df.len ∧ df'.idx.toNat = df.idx.toNat + 1) := by
  obtain ⟨-, rfl⟩ | ⟨inside, -, rfl⟩ | ⟨-, -, done, -, rfl⟩ := rxReceiving_cases received
  · exact .inl rfl
  · exact .inr ⟨rfl, rfl, DfState.append_idx_toNat inside⟩
  · exact .inl rfl

end

/-- Settles O28: the byte has an entry and is not the last. -/
theorem rxbyteInReceivingAppends : Obligations.RxbyteInReceivingAppends := fun _ _ phase due inside =>
  exec_dfRxbyte_ok ((dfReceive_receiving phase).trans (rxReceiving_appends inside due))

/-- As many bytes as are due bring RECEIVING to IDLE. -/
theorem Inv.receiving_reaches_idle {s : State} (inv : Inv s) (phase : s.df.phase = .receiving) (bs : List Byte)
    (enough : 3 + s.df.len.toNat ≤ s.df.idx.toNat + bs.length) :
    ∃ k t, k ≤ bs.length ∧ execAll ((bs.take k).map .dfRxbyte) s = .next t ∧ t.df.phase = .idle := by
  induction bs generalizing s with
  | nil =>
    obtain ⟨-, -, due, -⟩ := inv.df.receiving_bounds phase
    exact absurd due (Nat.not_lt.mpr enough)
  | cons b bs ih =>
    obtain ⟨u, answer, kept, -⟩ := inv.exec_dfRxbyte b
    obtain ⟨df, received, rfl⟩ := execDfRxbyte_cases answer
    obtain idle | ⟨same, length, more⟩ := rxReceiving_idle_or_next ((dfReceive_receiving phase).symm.trans received)
    · exact ⟨1, _, Nat.le_add_left _ _, execAll_cons_next answer, idle⟩
    · obtain ⟨k, t, within, run, idle⟩ := ih kept (same.trans phase) (by
        rw [List.length_cons] at enough
        simp only [State.respond_df, State.setDf_df, length, more, DfState.clearStall_len, DfState.clearStall_idx]
        omega)
      exact ⟨k + 1, t, Nat.succ_le_succ within, (execAll_cons_next answer).trans run, idle⟩

/-- Settles O37: a legal length leaves at most 9 bytes due after it. -/
theorem bytesReachIdle : Obligations.BytesReachIdle := by
  intro s inv
  refine ⟨fun bs phase nine => ?_, fun bs phase ten => ?_, fun b phase other => ?_⟩
  · obtain ⟨-, most, low, -, -⟩ := inv.df.receiving phase
    exact nine ▸ inv.receiving_reaches_idle phase bs (by bv_omega)
  · obtain ⟨l, bs, rfl⟩ := List.exists_cons_of_length_eq_add_one ten
    have answer := exec_dfRxbyte_ok (dfReceive_gotHdrLo (p := theParams) (b := l) phase)
    by_cases legal : 3 ≤ l.toNat ∧ l.toNat ≤ 9
    · rw [rxGotHdrLo_legal legal] at answer
      obtain ⟨k, t, within, run, idle⟩ := (inv.exec answer).receiving_reaches_idle rfl bs
        (show 3 + l.toNat ≤ 3 + bs.length by rw [List.length_cons] at ten; omega)
      rw [List.length_cons] at ten
      exact ⟨k + 1, t, by omega, (execAll_cons_next answer).trans run, idle⟩
    · rw [rxGotHdrLo_illegal legal] at answer
      exact ⟨1, _, by decide, execAll_cons_next answer, rfl⟩
  · refine ⟨_, exec_dfRxbyte_ok (dfReceive_gotHdrHi phase), ?_⟩
    by_cases header : b = hdrLo
    · rw [rxGotHdrHi_header header]
      exact .inl rfl
    · rw [rxGotHdrHi_discard header other]
      exact .inr rfl

end Sys2Proof.Machine

/-! SUPPORT. Whole display frames from their first byte to the last (spec/41_display_framer.md R131 to R143), and how
far apart two of them complete (spec/70_reset_and_hazards.md R208). -/

namespace Sys2Proof.Machine

/-! ### A frame in progress -/

/-- The block in mid-frame: as `s`, but for the framer's phase, its buffer and count, the declared length, and no stall
counted. -/
def State.inFrame (s : State) (phase : DfPhase) (len : Byte) (buf : Vector (Option Byte) 12) (count : Nat) : State :=
  { s with
    resp := ⟨false, false, 0#32⟩
    df := { s.df with phase := phase, len := len, buf := buf, idx := BitVec.ofNat 4 count, stall := 0#16 } }

/-- The block after a whole frame with the entries `e`: back in IDLE, and the pair latched if the frame carries one
(R138). -/
def State.afterFrame (s : State) (len : Byte) (buf : Vector (Option Byte) 12) (e : Nat → Byte) : State :=
  if (e 3 = 0x82#8 ∨ e 3 = 0x83#8) ∧ 6 ≤ len.toNat then
    (s.inFrame .idle len buf 0).setDf
      { (s.inFrame .idle len buf 0).df with addr := e 4 ++ e 5, value := e 7 ++ e 8, ready := true }
  else s.inFrame .idle len buf 0

section
variable {s : State} {l b : Byte} {buf : Vector (Option Byte) 12} {bs : List Byte}

/-- R131, R134: any number of further 0x5A leave the first byte of a header in the buffer. -/
theorem execAll_hdrHi_again (n : Nat) (holds : Holds buf [0x5A#8]) :
    ∃ buf', execAll ((List.replicate n 0x5A#8).map .dfRxbyte) (s.inFrame .gotHdrHi l buf 1) =
      .next (s.inFrame .gotHdrHi l buf' 1) ∧ Holds buf' [0x5A#8] := by
  induction n generalizing buf with
  | zero => exact ⟨buf, rfl, holds⟩
  | succ n ih =>
    have again : exec (.dfRxbyte 0x5A#8) (s.inFrame .gotHdrHi l buf 1) =
        .next (s.inFrame .gotHdrHi l (buf.setIfInBounds 0 (some 0x5A#8)) 1) :=
      rxbyteInGotHdrHi 0x5A#8 (s.inFrame .gotHdrHi l buf 1) rfl
    rw [List.replicate_succ, List.map_cons, execAll_cons_next again]
    exact ih (Holds.nil.append (by decide) 0x5A#8)

/-- R133, R134: from IDLE, one or more 0x5A and then 0xA5 are a header. -/
theorem execAll_header (n : Nat) (idle : s.df.phase = .idle) :
    ∃ buf, execAll ((List.replicate (n + 1) 0x5A#8 ++ [0xA5#8]).map .dfRxbyte) s =
      .next (s.inFrame .gotHdrLo s.df.len buf 2) ∧ Holds buf [0x5A#8, 0xA5#8] := by
  have first : exec (.dfRxbyte 0x5A#8) s =
      .next (s.inFrame .gotHdrHi s.df.len (s.df.buf.setIfInBounds 0 (some 0x5A#8)) 1) :=
    rxbyteInIdle 0x5A#8 s idle
  obtain ⟨buf, further, holds⟩ := execAll_hdrHi_again (s := s) (l := s.df.len) n
    (Holds.nil.append (buf := s.df.buf) (by decide) 0x5A#8)
  have second : exec (.dfRxbyte 0xA5#8) (s.inFrame .gotHdrHi s.df.len buf 1) =
      .next (s.inFrame .gotHdrLo s.df.len (buf.setIfInBounds 1 (some 0xA5#8)) 2) :=
    rxbyteInGotHdrHi 0xA5#8 (s.inFrame .gotHdrHi s.df.len buf 1) rfl
  refine ⟨_, ?_, holds.append (by decide) 0xA5#8⟩
  rw [List.replicate_succ, List.cons_append, List.map_cons, execAll_cons_next first, List.map_append]
  exact (execAll_append further).trans (execAll_cons_next second)

/-- R135: a legal length opens the frame. -/
theorem exec_legal_length {len : Byte} (holds : Holds buf [0x5A#8, 0xA5#8]) (legal : 3 ≤ l.toNat ∧ l.toNat ≤ 9) :
    ∃ buf', exec (.dfRxbyte l) (s.inFrame .gotHdrLo len buf 2) = .next (s.inFrame .receiving l buf' 3) ∧
      Holds buf' [0x5A#8, 0xA5#8, l] := by
  have opened := rxbyteInGotHdrLo l (s.inFrame .gotHdrLo len buf 2) rfl
  rw [if_pos legal] at opened
  exact ⟨_, opened, holds.append (by decide) l⟩

/-- R136: the bytes before the last are appended. -/
theorem execAll_append_bytes (most : l.toNat ≤ 9) (ds : List Byte) (holds : Holds buf bs)
    (due : bs.length + ds.length < 3 + l.toNat) :
    ∃ buf', execAll (ds.map .dfRxbyte) (s.inFrame .receiving l buf bs.length) =
      .next (s.inFrame .receiving l buf' (bs ++ ds).length) ∧ Holds buf' (bs ++ ds) := by
  induction ds generalizing buf bs with
  | nil => exact ⟨buf, by rw [List.append_nil]; rfl, bs.append_nil.symm ▸ holds⟩
  | cons d ds ih =>
    rw [List.length_cons] at due
    have length : (bs ++ [d]).length = bs.length + 1 := List.length_append
    have count : (s.inFrame .receiving l buf bs.length).df.idx.toNat = bs.length :=
      Nat.mod_eq_of_lt (show bs.length < 2 ^ 4 by omega)
    have more : exec (.dfRxbyte d) (s.inFrame .receiving l buf bs.length) =
        .next (s.inFrame .receiving l (buf.setIfInBounds bs.length (some d)) (bs ++ [d]).length) := by
      have appended := rxbyteInReceivingAppends d (s.inFrame .receiving l buf bs.length) rfl
        (by rw [count]; exact Nat.lt_of_le_of_lt (by omega) due) (by rw [count]; omega)
      rw [count] at appended
      rw [appended, length]
      unfold State.inFrame
      rw [BitVec.ofNat_add]
    obtain ⟨buf', others, kept⟩ := ih (holds.append (by omega) d) (by rw [length]; omega)
    rw [List.append_assoc, List.singleton_append] at others kept
    exact ⟨buf', (execAll_cons_next more).trans others, kept⟩

/-- R138: the last byte completes a frame whose bytes are `bs` and it. -/
theorem exec_last_byte (legal : 3 ≤ l.toNat ∧ l.toNat ≤ 9) (holds : Holds buf bs)
    (last : bs.length + 1 = 3 + l.toNat) {e : Nat → Byte} (bytes : ∀ i, e i = (bs ++ [b]).getD i 0) :
    ∃ buf', exec (.dfRxbyte b) (s.inFrame .receiving l buf bs.length) = .next (s.afterFrame l buf' e) := by
  let df := (s.inFrame .receiving l buf bs.length).df
  have count : df.idx.toNat = bs.length := Nat.mod_eq_of_lt (show bs.length < 2 ^ 4 by omega)
  have entries : (df.append b).buf = buf.setIfInBounds bs.length (some b) := by rw [DfState.append_buf, count]; rfl
  have read : ∀ i, i < 3 + l.toNat → (df.append b).read i = .ok (e i) := by
    intro i inside
    have received : i < (bs ++ [b]).length := by rwa [List.length_append, List.length_singleton, last]
    rw [DfState.read_eq_ok, entries, bytes, List.getD_eq_getElem _ _ received]
    exact (holds.append (by omega) b).written received
  have completed := rxReceiving_completes (p := theParams) (df := df) (by omega) (by rw [count]; exact last)
    (complete_eq legal.1 read)
  refine ⟨(df.append b).buf, (exec_dfRxbyte_ok ((dfReceive_receiving rfl).trans completed)).trans (congrArg _ ?_)⟩
  rw [State.afterFrame, show (df.append b).len = l from rfl]
  split_ifs <;> rfl

/-- R131 to R138: from IDLE, a header, a legal length and as many bytes are a whole frame. -/
theorem execAll_frame (n : Nat) {ds : List Byte} (idle : s.df.phase = .idle) (legal : 3 ≤ l.toNat ∧ l.toNat ≤ 9)
    (length : ds.length = l.toNat) {e : Nat → Byte} (bytes : ∀ i, e i = ([0x5A#8, 0xA5#8, l] ++ ds).getD i 0) :
    ∃ buf, execAll ((List.replicate (n + 1) 0x5A#8 ++ [0xA5#8] ++ l :: ds).map .dfRxbyte) s =
      .next (s.afterFrame l buf e) := by
  obtain rfl | ⟨init, last, rfl⟩ := List.eq_nil_or_concat' ds
  · exact absurd length (by rw [List.length_nil]; omega)
  rw [List.length_append, List.length_singleton] at length
  obtain ⟨buf₀, header, holds₀⟩ := execAll_header n idle
  obtain ⟨buf₁, opened, holds₁⟩ := exec_legal_length (s := s) (len := s.df.len) holds₀ legal
  obtain ⟨buf₂, appended, holds₂⟩ := execAll_append_bytes (s := s) legal.2 init holds₁ (by
    rw [List.length_cons, List.length_cons, List.length_singleton]; omega)
  obtain ⟨buf, completed⟩ := exec_last_byte (s := s) (b := last) legal holds₂
    (by rw [List.length_append, List.length_cons, List.length_cons, List.length_singleton]; omega)
    (e := e) (by rwa [List.append_assoc])
  refine ⟨buf, ?_⟩
  rw [List.map_append, execAll_append header, List.map_cons, execAll_cons_next opened, List.map_append]
  exact (execAll_append appended).trans (execAll_cons_next completed)

end

/-- Settles O38: the entries of the frame are its bytes. -/
theorem payloadFrameIsParsed : Obligations.PayloadFrameIsParsed := by
  intro s n l cmd a1 a0 x v1 v0 rest idle least most recognised length
  obtain ⟨buf, run⟩ := execAll_frame (s := s) n (ds := [cmd, a1, a0, x, v1, v0] ++ rest) idle ⟨by omega, most⟩
    (by rw [List.length_append, ← length, Nat.add_comm]; rfl) fun _ => rfl
  rw [State.afterFrame, if_pos ⟨recognised, least⟩] at run
  refine ⟨_, Eq.trans (congrArg (execAll · s) ?_) run, rfl, rfl, rfl, rfl, rfl, rfl, rfl, rfl, rfl⟩
  simp only [List.append_assoc, List.cons_append, List.nil_append]

/-- Settles O39: such a frame completes without a pair. -/
theorem uselessFrameLatchesNothing : Obligations.UselessFrameLatchesNothing := by
  intro s n l cmd rest idle least most useless length
  obtain ⟨buf, run⟩ := execAll_frame (s := s) n (ds := cmd :: rest) idle ⟨least, most⟩ length fun _ => rfl
  have noPair : ¬((cmd = 0x82#8 ∨ cmd = 0x83#8) ∧ 6 ≤ l.toNat) := by
    rintro ⟨recognised, payload⟩
    obtain short | ⟨notWrite, notRead⟩ := useless
    · omega
    · exact recognised.elim notWrite notRead
  have after : s.afterFrame l buf (fun i => ([0x5A#8, 0xA5#8, l] ++ cmd :: rest).getD i 0) = s.inFrame .idle l buf 0 :=
    if_neg noPair
  rw [after] at run
  refine ⟨_, Eq.trans (congrArg (execAll · s) ?_) run, rfl, rfl, rfl, rfl, rfl, rfl, rfl, rfl, rfl⟩
  simp only [List.append_assoc, List.cons_append, List.nil_append]

/-- Settles O40: after the header the length test of R135 rejects the frame. -/
theorem illegalLengthIsRejected : Obligations.IllegalLengthIsRejected := by
  intro s n l idle illegal
  obtain ⟨buf, header, -⟩ := execAll_header n idle
  have rejected := rxbyteInGotHdrLo l (s.inFrame .gotHdrLo s.df.len buf 2) rfl
  rw [if_neg illegal] at rejected
  have run := (execAll_append (js := [.dfRxbyte l]) header).trans (execAll_cons_next rejected)
  refine ⟨_, Eq.trans (congrArg (execAll · s) ?_) run, rfl, rfl, rfl, rfl, rfl, rfl, rfl, rfl, rfl⟩
  simp only [List.map_append, List.map_cons, List.map_nil, List.append_assoc, List.cons_append, List.nil_append]

/-! ### Two payload frames (R208) -/

/-- The bytes that are still due until a pair can be latched: a payload frame has 9 of them. -/
def DfState.pairDue (df : DfState) : Nat :=
  match df.phase with
  | .idle => 9
  | .gotHdrHi => 8
  | .gotHdrLo => 7
  | .receiving => if 6 ≤ df.len.toNat then 3 + df.len.toNat - df.idx.toNat else 9

section
variable {p : Params} {b : Byte} {df df' : DfState}

theorem DfState.pairDue_idle (phase : df.phase = .idle) : df.pairDue = 9 := by rw [pairDue, phase]

theorem DfState.pairDue_gotHdrHi (phase : df.phase = .gotHdrHi) : df.pairDue = 8 := by rw [pairDue, phase]

theorem DfState.pairDue_gotHdrLo (phase : df.phase = .gotHdrLo) : df.pairDue = 7 := by rw [pairDue, phase]

theorem DfState.pairDue_receiving (phase : df.phase = .receiving) :
    df.pairDue = if 6 ≤ df.len.toNat then 3 + df.len.toNat - df.idx.toNat else 9 := by rw [pairDue, phase]

/-- The length of R37 lets no frame have more bytes due than a whole one. -/
theorem DfInv.pairDue_le (inv : DfInv p df) : df.pairDue ≤ 9 := by
  cases phase : df.phase with
  | idle => exact (DfState.pairDue_idle phase).le
  | gotHdrHi => rw [DfState.pairDue_gotHdrHi phase]; decide
  | gotHdrLo => rw [DfState.pairDue_gotHdrLo phase]; decide
  | receiving =>
    obtain ⟨-, most, low, -, -⟩ := inv.receiving phase
    rw [DfState.pairDue_receiving phase]
    split_ifs <;> bv_omega

/-- A byte that latches was the last one due. -/
theorem Latched.pairDue_le (latched : Latched df df') : df.pairDue ≤ 1 := by
  have last := latched.last
  rw [DfState.pairDue_receiving latched.phase, if_pos latched.payload]
  omega

/-- A byte brings the pair at most one byte nearer. -/
theorem DfInv.pairDue_dfReceive (inv : DfInv p df) (received : Machine.dfReceive p b df = .ok df') :
    df.pairDue ≤ df'.pairDue + 1 := by
  have most := inv.pairDue_le
  have ofIdle (idle : df'.phase = .idle) : df.pairDue ≤ df'.pairDue + 1 := by
    rw [DfState.pairDue_idle idle]
    omega
  have ofGotHdrHi (first : df'.phase = .gotHdrHi) : df.pairDue ≤ df'.pairDue + 1 := by
    rw [DfState.pairDue_gotHdrHi first]
    exact most
  obtain ⟨phase, rfl⟩ | ⟨phase, rfl⟩ | ⟨phase, rfl⟩ | ⟨phase, arm⟩ := dfReceive_cases received
  · by_cases header : b = hdrHi
    · exact ofGotHdrHi (by rw [rxIdle_header header])
    · exact ofIdle (by rw [rxIdle_ignored header]; exact phase)
  · by_cases header : b = hdrLo
    · have second : (Machine.rxGotHdrHi b df.clearStall).phase = .gotHdrLo := by rw [rxGotHdrHi_header header]
      rw [DfState.pairDue_gotHdrHi phase, DfState.pairDue_gotHdrLo second]
    · by_cases again : b = hdrHi
      · exact ofGotHdrHi (by rw [rxGotHdrHi_restart again]; exact phase)
      · exact ofIdle (by rw [rxGotHdrHi_discard header again]; rfl)
  · by_cases legal : 3 ≤ b.toNat ∧ b.toNat ≤ 9
    · rw [DfState.pairDue_gotHdrLo phase, rxGotHdrLo_legal legal, DfState.pairDue_receiving rfl]
      show 7 ≤ (if 6 ≤ b.toNat then 3 + b.toNat - 3 else 9) + 1
      split_ifs <;> omega
    · exact ofIdle (by rw [rxGotHdrLo_illegal legal]; rfl)
  · obtain idle | ⟨same, length, more⟩ := rxReceiving_idle_or_next arm
    · exact ofIdle idle
    · rw [DfState.pairDue_receiving phase, DfState.pairDue_receiving (same.trans phase), length, more,
        DfState.clearStall_len, DfState.clearStall_idx]
      split_ifs <;> omega

/-- An empty poll brings it no nearer. -/
theorem DfInv.pairDue_dfPollEmpty (inv : DfInv p df) : df.pairDue ≤ (Machine.dfPollEmpty p df).pairDue := by
  by_cases idle : df.phase = .idle
  · rw [dfPollEmpty_idle idle]
  · by_cases exceeded : p.stallLimit < (df.stall + 1#16).toNat
    · rw [dfPollEmpty_timeout idle exceeded, DfState.pairDue_idle (df := (df.countStall.errInc p).toIdle) rfl]
      exact inv.pairDue_le
    · rw [dfPollEmpty_counts idle exceeded]
      exact le_refl _

end

/-- An operation brings the pair nearer only if it is a byte, and then by one. -/
theorem Inv.pairDue_exec {i : Instr} {s t : State} (inv : Inv s) (answer : Machine.exec i s = .next t)
    (notTake : i ≠ .dfTake) : s.df.pairDue ≤ t.df.pairDue + if isRxbyteOp i = true then 1 else 0 := by
  by_cases dfOp : isDfOp i
  · obtain ⟨b, rfl⟩ | rfl | rfl := dfOp
    · obtain ⟨df, received, rfl⟩ := execDfRxbyte_cases answer
      exact inv.df.pairDue_dfReceive received
    · obtain rfl := Host.Outcome.next.inj ((exec_dfIdle_eq s).symm.trans answer)
      exact inv.df.pairDue_dfPollEmpty
    · exact absurd rfl notTake
  · rw [exec_df_of_not_isDfOp answer dfOp]
    exact Nat.le_add_right _ _

/-- The pair stays as long as fewer bytes come than are due. -/
theorem Inv.samePair_of_countP_lt {s t : State} {ops : List Instr} (inv : Inv s)
    (few : ops.countP isRxbyteOp < s.df.pairDue) (notTake : .dfTake ∉ ops) (run : execAll ops s = .next t) :
    SamePair s.df t.df := by
  induction ops generalizing s with
  | nil =>
    obtain rfl := Host.Outcome.next.inj run
    exact .refl s.df
  | cons i is ih =>
    obtain ⟨u, answer, rest⟩ := execAll_cons_inv run
    obtain ⟨other, others⟩ := not_or.mp (mt List.mem_cons.mpr notTake)
    have due := inv.pairDue_exec answer (Ne.symm other)
    rw [List.countP_cons] at few
    obtain same | ⟨taken, -⟩ | ⟨⟨b, rfl⟩, latched⟩ := exec_pair_cases answer
    · exact same.trans (ih (inv.exec answer) (by omega) others rest)
    · exact absurd taken.symm other
    · have last := latched.pairDue_le
      rw [show isRxbyteOp (.dfRxbyte b) = true from rfl, if_pos rfl] at few
      omega

/-- Settles O41: in IDLE nine bytes are due. -/
theorem pairSurvivesEightBytes : Obligations.PairSurvivesEightBytes := by
  intro s t ops inv idle eight notTake run
  have same := inv.samePair_of_countP_lt (by rw [DfState.pairDue_idle idle]; omega) notTake run
  exact ⟨same.ready, same.addr, same.value⟩

end Sys2Proof.Machine
